-- ==== Sys2Proof/Word.lean ====
section
/-! DEFINITION. The plain value types of the transmitter.

Only two widths are fixed by the spec: a byte of the buffer and the bit mask have 8 bits (R16, R22, R28).
Every other width is a parameter of the configuration (R5), so a quantity of such a width is held as the
natural number it denotes (spec/00_scope.md section 6.1: every value is unsigned), kept below `2 ^ width` by
the operations of Machine/Operands.lean, which compute at the configured width on `BitVec` (log 2). -/

namespace Sys2Proof

/-- A byte of the pixel buffer, and the width of `MASK` and `CUR` (R16, R22). -/
abbrev Byte := BitVec 8

end Sys2Proof
end

