-- ==== Sys2Proof/Config.lean ====
section
/-! DEFINITION. The parameters of spec/00_scope.md section 5 (R5) and the free values.

"A model takes every parameter of the table as a configuration field" (R5): nothing in the model fixes a width.
The values of `Config.default` are the table's defaults (D1, D4, D5, D7, D14), which the spec calls its own
choice. -/

namespace Sys2Proof

/-- The sampling model the environment follows (R123 to R125). `general` bounds no gap; `bounded J` is the
bounded-stall profile with parameter `J`; in `ideal` every gap is exactly its lower bound. -/
inductive Profile where
  | general
  | bounded (J : Nat)
  | ideal
  deriving DecidableEq, Repr

/-- What one implementation fixes (R5). A field of type `Option` is a parameter the table leaves OPEN; `none`
says that no value is given. No rule depends on `ccdiv` (D2) or on `treset` (D21). `bench` is the model's own. -/
structure Config where
  /-- `CCW`: width of the cycle counter and of every cycle quantity (D1, D3). -/
  ccw : Nat
  /-- `AW`: width of a buffer address (D4). -/
  aw : Nat
  /-- `NL`: number of lines of the primary register bank (D5). -/
  nl : Nat
  /-- `AOW`: width of the alternate-bank register (D7). -/
  aow : Nat
  /-- `ABIT`: position of the one line in the alternate-bank register (D7). -/
  abit : Nat
  /-- `WLAT`: ticks from the sample that triggers a GPIO write to the write (D14). -/
  wlat : Nat
  /-- The sampling profile, with the stall bound `J` where there is one (D15). -/
  profile : Profile
  /-- `CCDIV`: CPU clock cycles in one counter tick (D2). -/
  ccdiv : Option Nat
  /-- `TRESET`: idle ticks the receiver needs between two transmissions, owed by the caller (D21, R180). -/
  treset : Option Nat
  /-- DESIGN CHOICE (log 11): `false` for the block of the spec, whose only interaction with the outside is the
  command (R145). `true` for a component bench, on which one operation of a component can be run by itself. -/
  bench : Bool
  deriving DecidableEq, Repr

/-- The least `k` with `n ≤ 2 ^ k`, that is `ceil(log2(n))`. -/
def ceilLog2 (n : Nat) : Nat :=
  ((List.range (n + 1)).find? fun k => decide (n ≤ 2 ^ k)).getD 0

/-- `PW = ceil(log2(NL))`, the width of the line-index operand (D5). -/
def Config.pw (c : Config) : Nat := ceilLog2 c.nl

/-- The parameters make a machine: every width is at least 1 (D1: "any `CCW >= 1`"), the alternate line is a bit
of its register, and a stall bound is at least 1 (R124). -/
def Config.legal (c : Config) : Bool :=
  decide (1 ≤ c.ccw) && decide (1 ≤ c.aw) && decide (1 ≤ c.nl) && decide (c.abit < c.aow) &&
    match c.profile with
    | .bounded J => decide (1 ≤ J)
    | _ => true

/-- The defaults of spec/00_scope.md section 5, for the block itself; the profile is the general one, which admits
every stall. -/
def Config.default : Config :=
  { ccw := 32, aw := 32, nl := 16, aow := 32, abit := 0, wlat := 0,
    profile := .general, ccdiv := none, treset := none, bench := false }

/-- The registers that R170 leaves unspecified after a command is accepted. -/
inductive Unspecified where
  | tstart | tprev | cur | pin
  deriving DecidableEq, Repr

/-- FREE VALUE (log 5): the extra ticks, beyond the lower bound, of the `n`-th gap that the environment draws
(R123: "The draw is free, subject only to the lower bound"). -/
opaque Config.freeStall : Nat → Nat

/-- FREE VALUE (log 16): what an unspecified register holds after the `n`-th draw (R170: "unspecified"). -/
opaque Config.freeRegister : Nat → Unspecified → Nat

end Sys2Proof
end

