-- ==== Sys2Proof/Syntax.lean ====
section
/-! DEFINITION. The operations of the block: one constructor of `Instr` for each of the 23 rows of
spec/opcode_table.json (R77), in the table's order. R6 says which of them stand for a processor's instructions. -/

namespace Sys2Proof

/-- The operations. An operand is the unsigned number its field holds (R62: "No argument is scaled, shifted,
sign-extended or converted"); Sys2Proof/WellFormed.lean says that it fits the field. The operands of a command
are the tuple of R60 without `op`: `a0` buffer start, `a1` buffer end (exclusive), `a2` line index (ignored by
the alternate variants, R63), `a3` short, `a4` long, `a5` period. -/
inductive Instr where
  /-- R132: primary bank, normal polarity. -/
  | txpn (a0 a1 a2 a3 a4 a5 : Nat)
  /-- R133: primary bank, inverted polarity. -/
  | txpi (a0 a1 a2 a3 a4 a5 : Nat)
  /-- R134: alternate bank, normal polarity. -/
  | txan (a0 a1 a2 a3 a4 a5 : Nat)
  /-- R135: alternate bank, inverted polarity. -/
  | txai (a0 a1 a2 a3 a4 a5 : Nat)
  /-- R80. -/
  | idle
  /-- R81. -/
  | awaitSlot
  /-- R82. -/
  | assert
  /-- R83. -/
  | hold
  /-- R84. -/
  | deassert
  /-- R85. -/
  | advance
  /-- R86. -/
  | done
  /-- R104. -/
  | assertPN
  /-- R105. -/
  | deassertPN
  /-- R106. -/
  | assertPI
  /-- R107. -/
  | deassertPI
  /-- R108. -/
  | assertAN
  /-- R109. -/
  | deassertAN
  /-- R110. -/
  | assertAI
  /-- R111. -/
  | deassertAI
  /-- R115: the operand is the bit whose duration is asked for. -/
  | dur (bit : Bool)
  /-- R120. -/
  | now
  /-- R68. -/
  | sym0
  /-- R69. -/
  | sym1
  deriving DecidableEq, Repr

/-- The states of the Transmit Loop (R20, R72). State code 7 is unused and unreachable (U13). -/
inductive LoopState where
  | idle | awaitSlot | assert | hold | deassert | advance | done
  deriving DecidableEq, Repr

/-- The formats of spec/opcode_table.json. A code of one format is no code of another: `0` alone is `TXPN`,
`IDLE`, `DEASSERT.PN` and `SYM0`. -/
inductive Format where
  | cmd | st | drv | dur | clk | sym
  deriving DecidableEq, Repr

/-- An operation issued from outside, with its word: the host's command, the one interaction the block has (R80,
R145), or one operation of a component by itself, which is taken on a component bench only (log 11). A state code is
never issued: `ST` is written by R80 to R85 only. -/
inductive Request where
  | cmd (word : Nat)
  | drv (word : Nat)
  | dur (word : Nat)
  | clk (word : Nat)
  | sym (word : Nat)
  deriving DecidableEq, Repr

def Request.format : Request → Format
  | .cmd _ => .cmd
  | .drv _ => .drv
  | .dur _ => .dur
  | .clk _ => .clk
  | .sym _ => .sym

def Request.word : Request → Nat
  | .cmd w => w
  | .drv w => w
  | .dur w => w
  | .clk w => w
  | .sym w => w

end Sys2Proof
end

