-- ==== Sys2Proof/WellFormed.lean ====
section
/-! DEFINITION. Which terms of `Instr` are operations of the block: every operand fits its field (R60, R74). -/

namespace Sys2Proof

/-- The value fits in `width` bits. -/
def fits (width value : Nat) : Bool := decide (value < 2 ^ width)

/-- The six arguments of a command fit their fields (the width column of R60). -/
def argumentsFit (c : Config) (a0 a1 a2 a3 a4 a5 : Nat) : Bool :=
  fits c.aw a0 && fits c.aw a1 && fits c.pw a2 && fits c.ccw a3 && fits c.ccw a4 && fits c.ccw a5

/-- Every operand fits its field. In the alternate variants `a2` may have any value of its field (R63). -/
def Instr.wellFormed (c : Config) : Instr → Bool
  | .txpn a0 a1 a2 a3 a4 a5 => argumentsFit c a0 a1 a2 a3 a4 a5
  | .txpi a0 a1 a2 a3 a4 a5 => argumentsFit c a0 a1 a2 a3 a4 a5
  | .txan a0 a1 a2 a3 a4 a5 => argumentsFit c a0 a1 a2 a3 a4 a5
  | .txai a0 a1 a2 a3 a4 a5 => argumentsFit c a0 a1 a2 a3 a4 a5
  | .idle => true
  | .awaitSlot => true
  | .assert => true
  | .hold => true
  | .deassert => true
  | .advance => true
  | .done => true
  | .assertPN => true
  | .deassertPN => true
  | .assertPI => true
  | .deassertPI => true
  | .assertAN => true
  | .deassertAN => true
  | .assertAI => true
  | .deassertAI => true
  | .dur _ => true
  | .now => true
  | .sym0 => true
  | .sym1 => true

end Sys2Proof
end

