-- ==== Sys2Proof/Decode.lean ====
section
/-! DEFINITION. The decoder and, after it, the encoder (spec/30_encoding.md).

A word is read in the format it comes in, because the formats share their codes (R77: "A decoder for a command
needs only `op`; everything else follows from the state machine"). The bit codes are those of R61 (`CMD.op`),
R70 (`DRV`) and R72 (`ST`); the fields of a command word follow one another in the order of R60's tuple, `op` in
bits 1 and 0 (log 14). -/

namespace Sys2Proof

/-- The command tuple of R60, its selector taken apart: `op[1] = alt`, `op[0] = inv` (R61). -/
structure Command where
  alt : Bool
  inv : Bool
  a0 : Nat
  a1 : Nat
  a2 : Nat
  a3 : Nat
  a4 : Nat
  a5 : Nat
  deriving DecidableEq, Repr

/-- The row of R61 a command tuple belongs to. -/
def Command.instr (k : Command) : Instr :=
  match k.alt, k.inv with
  | false, false => .txpn k.a0 k.a1 k.a2 k.a3 k.a4 k.a5
  | false, true => .txpi k.a0 k.a1 k.a2 k.a3 k.a4 k.a5
  | true, false => .txan k.a0 k.a1 k.a2 k.a3 k.a4 k.a5
  | true, true => .txai k.a0 k.a1 k.a2 k.a3 k.a4 k.a5

/-- The Pulse Driver micro-operation selected by `{ALT, INV, ACT}` (R70). -/
def Instr.driver (alt inv act : Bool) : Instr :=
  match alt, inv, act with
  | false, false, true => .assertPN
  | false, false, false => .deassertPN
  | false, true, true => .assertPI
  | false, true, false => .deassertPI
  | true, false, true => .assertAN
  | true, false, false => .deassertAN
  | true, true, true => .assertAI
  | true, true, false => .deassertAI

/-- The line-code symbol of a source bit (R68, R69). -/
def Instr.symbol (bit : Bool) : Instr := if bit then .sym1 else .sym0

/-- The 3-bit code of a loop state (R72). -/
def LoopState.code : LoopState → Nat
  | .idle => 0
  | .awaitSlot => 1
  | .assert => 2
  | .hold => 3
  | .deassert => 4
  | .advance => 5
  | .done => 6

/-- The loop state of a code; code 7 is unused (R72, U13). -/
def LoopState.ofCode : Nat → Option LoopState
  | 0 => some .idle
  | 1 => some .awaitSlot
  | 2 => some .assert
  | 3 => some .hold
  | 4 => some .deassert
  | 5 => some .advance
  | 6 => some .done
  | _ => none

/-- The micro-step a loop state selects (R72, third column). -/
def LoopState.microStep : LoopState → Instr
  | .idle => .idle
  | .awaitSlot => .awaitSlot
  | .assert => .assert
  | .hold => .hold
  | .deassert => .deassert
  | .advance => .advance
  | .done => .done

/-- How many bits a word of the format has. A command has `op` and the six fields of R60; `CLK` has no bits
(R120). -/
def Format.width (c : Config) : Format → Nat
  | .cmd => 2 + c.aw + c.aw + c.pw + c.ccw + c.ccw + c.ccw
  | .st => 3
  | .drv => 3
  | .dur => 1
  | .clk => 0
  | .sym => 1

/-- Why a word is no operation. -/
inductive DecodeError where
  /-- A bit beyond the format's width is set. -/
  | excessBits
  /-- State code 7 (R72: "Code 7 is unused and unreachable"). -/
  | unusedStateCode
  deriving DecidableEq, Repr

/-- The low `len` bits of a word. -/
def lowBits (len w : Nat) : Nat := w % 2 ^ len

/-- A word without its low `len` bits. -/
def dropBits (len w : Nat) : Nat := w / 2 ^ len

/-- The tuple of a command word: its fields, taken from the low end in the order of R60. -/
def commandOfWord (c : Config) (w : Nat) : Command :=
  let w0 := dropBits 2 w
  let w1 := dropBits c.aw w0
  let w2 := dropBits c.aw w1
  let w3 := dropBits c.pw w2
  let w4 := dropBits c.ccw w3
  let w5 := dropBits c.ccw w4
  { alt := w.testBit 1, inv := w.testBit 0, a0 := lowBits c.aw w0, a1 := lowBits c.aw w1,
    a2 := lowBits c.pw w2, a3 := lowBits c.ccw w3, a4 := lowBits c.ccw w4, a5 := lowBits c.ccw w5 }

/-- The operation of a word in its format: total, and a word that is no operation is rejected by name. -/
def decode (c : Config) (f : Format) (w : Nat) : Except DecodeError Instr :=
  if 2 ^ f.width c ≤ w then .error .excessBits
  else
    match f with
    | .cmd => .ok (commandOfWord c w).instr
    | .st =>
      match LoopState.ofCode w with
      | some x => .ok x.microStep
      | none => .error .unusedStateCode
    | .drv => .ok (Instr.driver (w.testBit 2) (w.testBit 1) (w.testBit 0))
    | .dur => .ok (.dur (w.testBit 0))
    | .clk => .ok .now
    | .sym => .ok (Instr.symbol (w.testBit 0))

/-- The word of a command with selector `op` (R60, R61). -/
def encodeCommand (c : Config) (op : Nat) (a0 a1 a2 a3 a4 a5 : Nat) : Format × Nat :=
  (.cmd, op + 2 ^ 2 * (a0 + 2 ^ c.aw * (a1 + 2 ^ c.aw * (a2 + 2 ^ c.pw *
    (a3 + 2 ^ c.ccw * (a4 + 2 ^ c.ccw * a5))))))

/-- The format and word of an operation, from the tables of R61, R72, R70 and the rows `DUR`, `NOW`, `SYM0` and
`SYM1` of spec/opcode_table.json. -/
def encode (c : Config) : Instr → Format × Nat
  | .txpn a0 a1 a2 a3 a4 a5 => encodeCommand c 0b00 a0 a1 a2 a3 a4 a5
  | .txpi a0 a1 a2 a3 a4 a5 => encodeCommand c 0b01 a0 a1 a2 a3 a4 a5
  | .txan a0 a1 a2 a3 a4 a5 => encodeCommand c 0b10 a0 a1 a2 a3 a4 a5
  | .txai a0 a1 a2 a3 a4 a5 => encodeCommand c 0b11 a0 a1 a2 a3 a4 a5
  | .idle => (.st, 0b000)
  | .awaitSlot => (.st, 0b001)
  | .assert => (.st, 0b010)
  | .hold => (.st, 0b011)
  | .deassert => (.st, 0b100)
  | .advance => (.st, 0b101)
  | .done => (.st, 0b110)
  | .assertPN => (.drv, 0b001)
  | .deassertPN => (.drv, 0b000)
  | .assertPI => (.drv, 0b011)
  | .deassertPI => (.drv, 0b010)
  | .assertAN => (.drv, 0b101)
  | .deassertAN => (.drv, 0b100)
  | .assertAI => (.drv, 0b111)
  | .deassertAI => (.drv, 0b110)
  | .dur bit => (.dur, if bit then 1 else 0)
  | .now => (.clk, 0)
  | .sym0 => (.sym, 0)
  | .sym1 => (.sym, 1)

/-! ### Words as spec/opcode_table.json numbers them

The table gives every row at most three bits and no row its format, so the numbers 0 to 7 stand for several rows
each. Such a number is read in the FIRST format, in the table's order, that has a row for it in the bits given
(log 15): `CMD` for 0 to 3, `ST` for 4 to 6, `DRV` for 7. A number from 8 on can only be a command with operand
bits. -/

/-- The formats, in the table's order. -/
def tableFormats : List Format := [.cmd, .st, .drv, .dur, .clk, .sym]

/-- How many bits the table gives the rows of a format. -/
def Format.tableBits : Format → Nat
  | .cmd => 2
  | .st => 3
  | .drv => 3
  | .dur => 1
  | .clk => 0
  | .sym => 1

/-- The table has a row of this format with these bits. -/
def Format.hasTableRow (f : Format) (nbits w : Nat) : Bool :=
  decide (f.tableBits ≤ nbits) && decide (w < 2 ^ f.tableBits) && !(f = .st && w = 7)

/-- The format in which a table word is read. -/
def tableFormat (nbits w : Nat) : Format :=
  (tableFormats.find? fun f => f.hasTableRow nbits w).getD .cmd

/-- The operation the decoder reads from an instruction whose bits are `w`, numbered as the table numbers them,
its operand bits zero. -/
def decodeTableWord (nbits w : Nat) : Option Instr :=
  match decode Config.default (tableFormat nbits w) w with
  | .ok i => some i
  | .error _ => none

end Sys2Proof
end

