-- ==== Sys2Proof/Machine/State.lean ====
section
/-! DEFINITION. The state of the block as plain data (spec/10_state.md), its reset value, and the reasons a step
can stop. -/

namespace Sys2Proof.Machine

/-- The register bank a GPIO write goes to: `P` or `A` of R31. -/
inductive Bank where
  | primary | alternate
  deriving DecidableEq, Repr

/-- One entry `(T, c, port, bit, level)` of the write trace (R31). -/
structure TraceEntry where
  /-- Hidden tick count at the write. -/
  t : Nat
  /-- Counter value at the write. -/
  c : Nat
  port : Bank
  /-- Bit position written: `PIN` or `ABIT`. -/
  bit : Nat
  /-- The new logic level of that bit. -/
  level : Bool
  deriving DecidableEq, Repr

/-- The pixel-buffer space (R28): the bytes that can be read, addresses strictly rising. An address that is not
listed cannot be read (U6, log 8). -/
abbrev Memory := List Host.Cell

/-- The state of the machine. A register of `w` bits is a natural number below `2 ^ w` (log 2). -/
structure State where
  /-- The parameters (R5). Nothing writes them. -/
  cfg : Config
  /-- `END` (R11). -/
  endAddr : Nat
  /-- `SH` (R12). -/
  sh : Nat
  /-- `LH` (R12). -/
  lh : Nat
  /-- `PER` (R12). -/
  per : Nat
  /-- `PIN` (R13). -/
  pin : Nat
  /-- `INV` (R14): `false` normal, `true` inverted. -/
  inv : Bool
  /-- `ALT` (R15): `false` primary, `true` alternate. -/
  alt : Bool
  /-- `ST` (R20). -/
  st : LoopState
  /-- `PTR` (R21). -/
  ptr : Nat
  /-- `MASK` (R22). -/
  mask : Byte
  /-- `CUR` (R16). -/
  cur : Byte
  /-- `TSTART` (R17). -/
  tstart : Nat
  /-- `TPREV` (R18). -/
  tprev : Nat
  /-- `POUT` (R25): bit `i` is the level of primary line `i`. -/
  pout : Nat
  /-- `AOUT` (R26): bit `ABIT` is the level of the alternate line. -/
  aout : Nat
  /-- `Mem` (R28). -/
  mem : Memory
  /-- `T` (R30): ticks elapsed. -/
  t : Nat
  /-- `C0` (R30): the counter value at `T = 0`. -/
  c0 : Nat
  /-- `WTRACE` (R31), oldest entry first. -/
  wtrace : List TraceEntry
  /-- The latest counter sample was a test of a wait state that failed, so that the next poll is a re-poll
  (R123, log 7). -/
  repoll : Bool
  /-- Model's own: the operation issued from outside and not yet taken (R80, R145, log 10). -/
  request : Option Request
  /-- Model's own: the environment's next draws, extra ticks beyond the lower bound of each gap, next first
  (R123, log 5). -/
  stalls : List Nat
  /-- Model's own: which free value is drawn next (log 5, log 16). -/
  draws : Nat
  /-- Model's own: the value a `NOW` or `DUR` returned when run by itself on a component bench (log 11). -/
  portOut : Nat
  deriving DecidableEq, Repr

/-- The faults of the block: none. "No step of `40_transmit_loop.md` has a fault outcome; no value is recorded about
any failure (no faulting address, no status bit)" (R150). -/
inductive Fault where
  deriving DecidableEq, Repr

/-- Why there is no step: an input has no meaning, or the block is stuck. -/
inductive Refusal where
  /-- Raised by an arm of `exec` whose instruction has no meaning yet. Safe: the model stops. -/
  | notModelled (mnemonic : String)
  /-- Raised by a command with `a0 >u a1` (R64, U5). Safe: the spec refuses it. -/
  | endBeforeStart
  /-- Raised by a primary-bank command with `a2 >=u NL` (R73, U4). Safe: the spec refuses it. -/
  | noSuchLine
  /-- Raised by the step that fetches a byte (R80, R85) at an address that cannot be read: the block is stuck, for
  "`MemRead` has no result, so rule R80 or R85 has no step" (U6). It says nothing about the address (R150). Safe: the
  model has no next state where hardware may go on. -/
  | stuckRead
  /-- Raised by a command while a call is in progress (R80, U1). Safe: the spec refuses it. -/
  | commandDuringCall
  /-- Raised by the step when anything but a command is issued to the block (R145: "The block has no other
  interaction with the host"), and on a component bench when it is issued during a call. Safe: the model stops. -/
  | noSuchInteraction
  /-- Raised by the step when the word issued encodes no operation. Safe: the spec gives it none. -/
  | undecodable (why : DecodeError)
  deriving DecidableEq, Repr

/-- The state the model starts in. `ST = IDLE` is R173's; every other register is unspecified there and holds
zero here, `MASK` its starting value `0x80` (DESIGN CHOICE, log 3), as do the counter, the GPIO registers and the origin of time (DESIGN CHOICE,
log 4). Memory lists nothing, no operation is issued, and no draw is fixed in advance. -/
def State.reset : State :=
  { cfg := Config.default
    endAddr := 0, sh := 0, lh := 0, per := 0, pin := 0, inv := false, alt := false
    st := .idle, ptr := 0, mask := 0x80, cur := 0, tstart := 0, tprev := 0
    pout := 0, aout := 0, mem := []
    t := 0, c0 := 0, wtrace := []
    repoll := false, request := none, stalls := [], draws := 0, portOut := 0 }

end Sys2Proof.Machine
end

