-- ==== Sys2Proof/Machine/Operands.lean ====
section
/-! DEFINITION. The operand forms and the arithmetic of the block (R62, R96), at the configured widths, and the
values that are functions of the state: `CC` (R30), `LINE` (R27), `PINMASK` (R13). -/

namespace Sys2Proof.Machine

/-- The value a field of `w` bits holds when `x` is put on it. -/
def trunc (w x : Nat) : Nat := (BitVec.ofNat w x).toNat

/-- `a -_W b` of spec/00_scope.md section 6.1: subtraction modulo `2 ^ w` (R122, R96 (a) and (b)). -/
def subMod (w a b : Nat) : Nat := (BitVec.ofNat w a - BitVec.ofNat w b).toNat

/-- `a + 1` at `w` bits (R53, R96 (e)). -/
def incMod (w a : Nat) : Nat := (BitVec.ofNat w a + 1).toNat

/-- `zext_w(1) << i`: the `w`-bit word with exactly bit `i` set (R13, R62). -/
def oneHot (w i : Nat) : Nat := (BitVec.ofNat w 1 <<< i).toNat

/-- `r OR m` at `w` bits (R101). -/
def setBits (w r m : Nat) : Nat := (BitVec.ofNat w r ||| BitVec.ofNat w m).toNat

/-- `r AND NOT m` at `w` bits (R102). -/
def clearBits (w r m : Nat) : Nat := (BitVec.ofNat w r &&& ~~~ BitVec.ofNat w m).toNat

/-- `r` with bit `i` replaced by `level`, at `w` bits (R103: `v[ABIT] <- level`). -/
def replaceBit (w r i : Nat) (level : Bool) : Nat :=
  if level then setBits w r (oneHot w i) else clearBits w r (oneHot w i)

/-- `CC`, the counter value now: `(C0 + T) mod 2^CCW` (R30). -/
def State.cc (s : State) : Nat := (s.c0 + s.t) % 2 ^ s.cfg.ccw

/-- `PINMASK` (R13). -/
def State.pinMask (s : State) : Nat := oneHot s.cfg.nl s.pin

/-- `LINE`, the level of the line a call drives (R27). It follows the register bit: the pin is configured as an
output (R175, log 22). -/
def State.line (s : State) : Bool :=
  if s.alt then s.aout.testBit s.cfg.abit else s.pout.testBit s.pin

/-- The Bit Timing Selector: `DUR(bit) = if bit = 1 then R.LH else R.SH` (R115). -/
def State.duration (s : State) (bit : Bool) : Nat := if bit then s.lh else s.sh

end Sys2Proof.Machine
end

