-- ==== Sys2Proof/Machine/Flags.lean ====
section
/-! DEFINITION. The block has no flag (R23). What stands in a flag's place are the bit test and the two comparisons
of the loop, which "are used at once to choose the next state and are not stored" (R23). Each is a function of the
state in which the counter has been sampled: `CC` there is the sample. -/

namespace Sys2Proof.Machine

/-- The current bit of the current byte: `(R.CUR AND R.MASK) != 0` (R116). -/
def State.currentBit (s : State) : Bool := (s.cur &&& s.mask) != 0

/-- The duration of the current bit (R83). -/
def State.currentDuration (s : State) : Nat := s.duration s.currentBit

/-- `(now -_W R.TPREV) >=u R.PER` (R81). -/
def State.slotDue (s : State) : Bool := decide (s.per ≤ subMod s.cfg.ccw s.cc s.tprev)

/-- `(now -_W R.TSTART) >=u dur` (R83). -/
def State.holdDue (s : State) : Bool := decide (s.currentDuration ≤ subMod s.cfg.ccw s.cc s.tstart)

/-- `ST` accepts a command: it is `IDLE` or `DONE` (R80). -/
def State.accepting (s : State) : Bool := s.st = .idle || s.st = .done

end Sys2Proof.Machine
end

