-- ==== Sys2Proof/Machine/Ops.lean ====
section
/-! DEFINITION. The named operations the meanings share: memory, the counter sample, the GPIO ports, and the
acceptance of a command. The block takes no exception and returns from none (R150, R155, R156), so there is no
exception entry here; "The only \"entry\" of the block is the start of a call" (R155), which is `accept`. -/

namespace Sys2Proof.Machine

/-! ### Memory -/

/-- The byte listed at an address, if there is one. -/
def Memory.read (m : Memory) (a : Nat) : Option Byte :=
  match m with
  | [] => none
  | (k, b) :: rest => if a = k then some b else Memory.read rest a

/-- The caller's store of a byte, which lays out a buffer before a call (R178). No step performs it (R41). -/
def Memory.write (m : Memory) (a : Nat) (b : Byte) : Memory :=
  match m with
  | [] => [(a, b)]
  | (k, v) :: rest =>
    if a < k then (a, b) :: (k, v) :: rest
    else if a = k then (a, b) :: rest
    else (k, v) :: Memory.write rest a b

/-- The canonical form: addresses strictly rising. (An unlisted address reads as no byte, so no entry equals what
an unlisted address reads as.) -/
def Memory.wf : Memory → Bool
  | [] => true
  | [_] => true
  | (a, _) :: (b, v) :: rest => decide (a < b) && Memory.wf ((b, v) :: rest)

/-- `MemRead(addr, 1)` (R40): no side effect. -/
def State.memRead (s : State) (a : Nat) : Option Byte := s.mem.read a

/-! ### The state register -/

/-- `R.ST <- x`. -/
def enter (x : LoopState) (s : State) : State := { s with st := x }

/-- A wait test failed: the wait state stays, and the next sample is a re-poll (R81, R83, R123). -/
def pollAgain (x : LoopState) (s : State) : State := { s with st := x, repoll := true }

/-- A value is returned by an operation run by itself on a component bench (log 11). -/
def returnValue (v : Nat) (s : State) : State := { s with portOut := v }

/-! ### The Cycle Clock Reader -/

/-- The extra ticks the environment draws for the next gap: the first one fixed in advance, else a free value. -/
def State.extra (s : State) : Nat :=
  match s.stalls with
  | x :: _ => x
  | [] => Config.freeStall s.draws

/-- The draws still fixed once one has been taken. -/
def State.stallsAfter (s : State) : List Nat := s.stalls.tail

/-- The index of the next free value once a gap has been drawn. -/
def State.drawsAfter (s : State) : Nat :=
  match s.stalls with
  | _ :: _ => s.draws
  | [] => s.draws + 1

/-- The lower bound of the next gap: 1 for a re-poll, else 0 (R123). -/
def State.gmin (s : State) : Nat := if s.repoll then 1 else 0

/-- The gap of the next sample: at least `gmin` (R123), at most `J` in the bounded-stall profile (R124), exactly
`gmin` in the ideal profile (R125). -/
def State.gap (s : State) : Nat :=
  match s.cfg.profile with
  | .general => s.gmin + s.extra
  | .bounded J => min (s.gmin + s.extra) J
  | .ideal => s.gmin

/-- `Now()` (R120): the environment advances `T` by a gap. The value returned is `CC` of the state after it. A
re-poll follows a failed test directly, so the sample clears the mark and a failed test sets it again. -/
def sample (s : State) : State :=
  { s with t := s.t + s.gap, stalls := s.stallsAfter, draws := s.drawsAfter, repoll := false }

/-! ### The Pulse Driver -/

/-- `Emit`: one entry of the write trace, stamped with the time of the latest sample plus `WLAT` (R31, R101). -/
def State.entry (s : State) (port : Bank) (bit : Nat) (level : Bool) : TraceEntry :=
  { t := s.t + s.cfg.wlat, c := (s.c0 + (s.t + s.cfg.wlat)) % 2 ^ s.cfg.ccw,
    port := port, bit := bit, level := level }

/-- `PSet(PINMASK)` (R101). DESIGN CHOICE (log 26): with `PIN >= NL`, which only an operation run on the component
bench can meet, there is no such line: the mask is 0, no line changes, and the write is logged all the same. -/
def setPin (s : State) : State :=
  { s with pout := setBits s.cfg.nl s.pout s.pinMask,
           wtrace := s.wtrace ++ [s.entry .primary s.pin true] }

/-- `PClr(PINMASK)` (R102). DESIGN CHOICE (log 26): with `PIN >= NL`, as `setPin`. -/
def clearPin (s : State) : State :=
  { s with pout := clearBits s.cfg.nl s.pout s.pinMask,
           wtrace := s.wtrace ++ [s.entry .primary s.pin false] }

/-- `v <- ARead(); v[ABIT] <- level; AWrite(v)` (R103), one step (R54, log 18). -/
def writeAlternate (level : Bool) (s : State) : State :=
  { s with aout := replaceBit s.cfg.aow s.aout s.cfg.abit level,
           wtrace := s.wtrace ++ [s.entry .alternate s.cfg.abit level] }

/-- The register action of each Pulse Driver micro-operation `{ALT, INV, ACT}` (R70). -/
def driverAction (alt inv act : Bool) (s : State) : State :=
  match alt, inv, act with
  | false, false, true => setPin s
  | false, false, false => clearPin s
  | false, true, true => clearPin s
  | false, true, false => setPin s
  | true, false, true => writeAlternate true s
  | true, false, false => writeAlternate false s
  | true, true, true => writeAlternate false s
  | true, true, false => writeAlternate true s

/-- `Drive(ACT)`: the micro-operation selected by `{R.ALT, R.INV, ACT}` (R100). -/
def drive (act : Bool) (s : State) : State := driverAction s.alt s.inv act s

/-! ### The line code -/

/-- How many ticks longer than its duration a symbol stays asserted: none in the ideal profile, any number in
general (R68, R69), and under a stall bound what R94 allows (a pulse of duration 0 ends at its first sample). -/
def State.overshoot (s : State) (dur : Nat) : Nat :=
  match s.cfg.profile with
  | .general => s.extra
  | .bounded J => min s.extra (if dur = 0 then J else J - 1)
  | .ideal => 0

/-- The samples of the symbol's high time, taken together: time passes until the duration is over. DESIGN CHOICE
(log 13): they are no re-poll of a wait of the loop, so no lower bound of R123 applies to them (with a duration of 0
they may take no time), and the next sample is no re-poll either. -/
def elapse (dur : Nat) (s : State) : State :=
  { s with t := s.t + dur + s.overshoot dur, stalls := s.stallsAfter, draws := s.drawsAfter,
           repoll := false }

/-- One symbol on the line (R67): asserted, held for the bit's duration, de-asserted. The rest of the slot is the
wait of the slot after it (log 13). -/
def sendSymbol (bit : Bool) (s : State) : State :=
  drive false (elapse (s.duration bit) (drive true s))

/-! ### The acceptance of a command (R80) -/

/-- What a register of `w` bits that R170 leaves unspecified holds: a free value, the `n`-th drawn. -/
def unspecified (n : Nat) (r : Unspecified) (w : Nat) : Nat := trunc w (Config.freeRegister n r)

/-- The state created at the start of a call (R80 up to the emptiness test; R170): the operand latches, `PTR`,
`MASK`, an empty trace. `TSTART`, `TPREV`, `CUR` and, in the alternate variants, `PIN` are unspecified here
(log 16). Nothing of an earlier call is kept (R171). -/
def newCall (k : Command) (s : State) : State :=
  { s with
    alt := k.alt, inv := k.inv
    pin := if k.alt then unspecified s.draws .pin s.cfg.pw else trunc s.cfg.pw k.a2
    endAddr := trunc s.cfg.aw k.a1
    sh := trunc s.cfg.ccw k.a3, lh := trunc s.cfg.ccw k.a4, per := trunc s.cfg.ccw k.a5
    ptr := trunc s.cfg.aw k.a0
    mask := 0x80
    wtrace := []
    cur := BitVec.ofNat 8 (Config.freeRegister s.draws .cur)
    tstart := unspecified s.draws .tstart s.cfg.ccw
    tprev := unspecified s.draws .tprev s.cfg.ccw
    draws := s.draws + 1
    repoll := false }

/-- `R.TPREV <- Now() -_W R.PER`, in the state in which the priming sample has been taken (R80). -/
def prime (s : State) : State := { s with tprev := subMod s.cfg.ccw s.cc s.per }

/-- A byte becomes the current byte: `R.CUR <- b; R.ST <- AWAIT_SLOT` (R80, R85). -/
def loadByte (b : Byte) (s : State) : State := { s with cur := b, st := .awaitSlot }

/-- `R.CUR <- MemRead(a, 1); R.ST <- AWAIT_SLOT` (R80, R85). An address that cannot be read gives no step (U6). -/
def fetchByte (a : Nat) (s : State) : Host.Outcome State Fault Refusal :=
  match s.memRead a with
  | some b => .next (loadByte b s)
  | none => .refused .stuckRead

/-- The rest of R80: an empty buffer is done at once, else the baseline is primed and the first byte fetched. -/
def startCall (s : State) : Host.Outcome State Fault Refusal :=
  if s.ptr = s.endAddr then .next (enter .done s) else fetchByte s.ptr (prime (sample s))

/-- R80: the block takes a command. The three refusals are those of R145 (a command during a call), R64 (end
before start) and R73 (no such line). -/
def accept (k : Command) (s : State) : Host.Outcome State Fault Refusal :=
  if !s.accepting then .refused .commandDuringCall
  else if trunc s.cfg.aw k.a1 < trunc s.cfg.aw k.a0 then .refused .endBeforeStart
  else if !k.alt && decide (s.cfg.nl ≤ trunc s.cfg.pw k.a2) then .refused .noSuchLine
  else startCall (newCall k s)

/-- The block has taken what was issued. -/
def taken (s : State) : State := { s with request := none }

/-- What the block does between calls (R80, R86): it takes the command the host has issued, and without one "the
block does nothing". -/
def serveHost (s : State) : Host.Outcome State Fault Refusal :=
  match s.request with
  | some (.cmd w) =>
    if 2 ^ Format.cmd.width s.cfg ≤ w then .refused (.undecodable .excessBits)
    else accept (commandOfWord s.cfg w) (taken s)
  | _ => .next s

/-! ### Fetch -/

/-- What has been issued is no interaction the machine has. The block takes nothing but commands, during a call and
between calls (R145); a component bench (log 11) takes an operation of a component between calls. A command during a
call is refused by `accept` (R80). -/
def State.intruded (s : State) : Bool :=
  match s.request with
  | none => false
  | some (.cmd _) => false
  | some _ => !(s.cfg.bench && s.accepting)

/-- Where the next operation comes from: what has been issued from outside, else the micro-step that `ST`
selects (R72). -/
def fetch (s : State) : Format × Nat :=
  match s.request with
  | some r => (r.format, r.word)
  | none => (.st, s.st.code)

/-- The request that makes the next step run a word, for every format but `ST`. -/
def requestOf (f : Format) (w : Nat) : Option Request :=
  match f with
  | .cmd => some (.cmd w)
  | .st => none
  | .drv => some (.drv w)
  | .dur => some (.dur w)
  | .clk => some (.clk w)
  | .sym => some (.sym w)

end Sys2Proof.Machine
end

