-- ==== Sys2Proof/Machine/Driver.lean ====
section
/-! DEFINITION. The eight micro-operations of the Pulse Driver (spec/41_pulse_driver.md R104 to R111). Each drives
one bit to a level fixed by the row, whatever the bit held before (R100). -/

namespace Sys2Proof.Machine

/-- R104: `PSet(PINMASK)`. -/
def execAssertPN (s : State) : Host.Outcome State Fault Refusal := .next (setPin s)

/-- R105: `PClr(PINMASK)`. -/
def execDeassertPN (s : State) : Host.Outcome State Fault Refusal := .next (clearPin s)

/-- R106: `PClr(PINMASK)`. -/
def execAssertPI (s : State) : Host.Outcome State Fault Refusal := .next (clearPin s)

/-- R107: `PSet(PINMASK)`. -/
def execDeassertPI (s : State) : Host.Outcome State Fault Refusal := .next (setPin s)

/-- R108: `AOUT[ABIT] <- 1`. -/
def execAssertAN (s : State) : Host.Outcome State Fault Refusal := .next (writeAlternate true s)

/-- R109: `AOUT[ABIT] <- 0`. -/
def execDeassertAN (s : State) : Host.Outcome State Fault Refusal := .next (writeAlternate false s)

/-- R110: `AOUT[ABIT] <- 0`. -/
def execAssertAI (s : State) : Host.Outcome State Fault Refusal := .next (writeAlternate false s)

/-- R111: `AOUT[ABIT] <- 1`. -/
def execDeassertAI (s : State) : Host.Outcome State Fault Refusal := .next (writeAlternate true s)

end Sys2Proof.Machine
end

