-- ==== Sys2Proof/Machine/Loop.lean ====
section
/-! DEFINITION. The seven micro-steps of the Transmit Loop (spec/40_transmit_loop.md R80 to R86). A micro-step is
selected by `ST` (R72, `fetch`), so a meaning does not test `ST` again (log 25). -/

namespace Sys2Proof.Machine

/-- R80: "Enabled only when the host issues a command; otherwise the block does nothing". -/
def execIdle (s : State) : Host.Outcome State Fault Refusal := serveHost s

/-- `R.TSTART <- now; R.ST <- ASSERT` (R81). -/
def startSlot (s : State) : State := { s with tstart := s.cc, st := .assert }

/-- R81, once the sample is taken: the test. -/
def testPeriod (s : State) : Host.Outcome State Fault Refusal :=
  if s.slotDue then .next (startSlot s) else .next (pollAgain .awaitSlot s)

/-- R81: one sample, one test. -/
def execAwaitSlot (s : State) : Host.Outcome State Fault Refusal := testPeriod (sample s)

/-- R82. -/
def execAssert (s : State) : Host.Outcome State Fault Refusal := .next (enter .hold (drive true s))

/-- R83, once the sample is taken: the test. -/
def testDuration (s : State) : Host.Outcome State Fault Refusal :=
  if s.holdDue then .next (enter .deassert s) else .next (pollAgain .hold s)

/-- R83: one sample, one test. -/
def execHold (s : State) : Host.Outcome State Fault Refusal := testDuration (sample s)

/-- R84. -/
def execDeassert (s : State) : Host.Outcome State Fault Refusal := .next (enter .advance (drive false s))

/-- `R.TPREV <- R.TSTART; R.MASK <- R.MASK >> 1` (R85). -/
def shiftMask (s : State) : State := { s with tprev := s.tstart, mask := s.mask >>> 1 }

/-- `R.MASK <- 0x80; R.PTR <- R.PTR + 1` (R85). -/
def nextAddress (s : State) : State := { s with mask := 0x80, ptr := incMod s.cfg.aw s.ptr }

/-- R85, past a byte: the end of the buffer, or the next byte. -/
def nextByte (s : State) : Host.Outcome State Fault Refusal :=
  if s.ptr = s.endAddr then .next (enter .done s) else fetchByte s.ptr s

/-- R85, once the mask is shifted. -/
def nextBit (s : State) : Host.Outcome State Fault Refusal :=
  if s.mask = 0 then nextByte (nextAddress s) else .next (enter .awaitSlot s)

/-- R85. -/
def execAdvance (s : State) : Host.Outcome State Fault Refusal := nextBit (shiftMask s)

/-- R86: the block "takes no further step of its own"; "A new command is accepted exactly as in `IDLE`". -/
def execDone (s : State) : Host.Outcome State Fault Refusal := serveHost s

end Sys2Proof.Machine
end

