-- ==== Sys2Proof/Machine/Timing.lean ====
section
/-! DEFINITION. The Bit Timing Selector (R115), the Cycle Clock Reader (R120) and the two line-code symbols (R68,
R69), each as an operation on its own. -/

namespace Sys2Proof.Machine

/-- R115: the result is returned; no register is written. -/
def execDur (bit : Bool) (s : State) : Host.Outcome State Fault Refusal :=
  .next (returnValue (s.duration bit) s)

/-- R120: one sample; the value of `CC` at that instant is returned. -/
def execNow (s : State) : Host.Outcome State Fault Refusal :=
  .next (returnValue (sample s).cc (sample s))

/-- R68: a source bit 0, asserted for `shortHigh` ticks. -/
def execSym0 (s : State) : Host.Outcome State Fault Refusal := .next (sendSymbol false s)

/-- R69: a source bit 1, asserted for `longHigh` ticks. -/
def execSym1 (s : State) : Host.Outcome State Fault Refusal := .next (sendSymbol true s)

end Sys2Proof.Machine
end

