-- ==== Sys2Proof/Machine/Transmit.lean ====
section
/-! DEFINITION. The four commands (spec/44_transmit_operation.md R132 to R135). "Its whole effect is: starting from
`IDLE`, perform rule R80, then the micro-steps of rules R81 to R85 until `DONE`" (R130): the command's own step is
R80 with the row's `op`, and the micro-steps are the steps that follow (log 12). -/

namespace Sys2Proof.Machine

/-- R132: `op = 0b00`. -/
def execTxpn (a0 a1 a2 a3 a4 a5 : Nat) (s : State) : Host.Outcome State Fault Refusal :=
  accept { alt := false, inv := false, a0 := a0, a1 := a1, a2 := a2, a3 := a3, a4 := a4, a5 := a5 } s

/-- R133: `op = 0b01`. -/
def execTxpi (a0 a1 a2 a3 a4 a5 : Nat) (s : State) : Host.Outcome State Fault Refusal :=
  accept { alt := false, inv := true, a0 := a0, a1 := a1, a2 := a2, a3 := a3, a4 := a4, a5 := a5 } s

/-- R134: `op = 0b10`; `a2` is ignored (R63). -/
def execTxan (a0 a1 a2 a3 a4 a5 : Nat) (s : State) : Host.Outcome State Fault Refusal :=
  accept { alt := true, inv := false, a0 := a0, a1 := a1, a2 := a2, a3 := a3, a4 := a4, a5 := a5 } s

/-- R135: `op = 0b11`; `a2` is ignored (R63). -/
def execTxai (a0 a1 a2 a3 a4 a5 : Nat) (s : State) : Host.Outcome State Fault Refusal :=
  accept { alt := true, inv := true, a0 := a0, a1 := a1, a2 := a2, a3 := a3, a4 := a4, a5 := a5 } s

end Sys2Proof.Machine
end

