-- ==== Sys2Proof/Machine/Dispatch.lean ====
section
/-! DEFINITION. One arm for each operation of spec/opcode_table.json. -/

namespace Sys2Proof.Machine

def exec (i : Instr) (s : State) : Host.Outcome State Fault Refusal :=
  match i with
  | .txpn a0 a1 a2 a3 a4 a5 => Sys2Proof.Machine.execTxpn a0 a1 a2 a3 a4 a5 s
  | .txpi a0 a1 a2 a3 a4 a5 => Sys2Proof.Machine.execTxpi a0 a1 a2 a3 a4 a5 s
  | .txan a0 a1 a2 a3 a4 a5 => Sys2Proof.Machine.execTxan a0 a1 a2 a3 a4 a5 s
  | .txai a0 a1 a2 a3 a4 a5 => Sys2Proof.Machine.execTxai a0 a1 a2 a3 a4 a5 s
  | .idle => Sys2Proof.Machine.execIdle s
  | .awaitSlot => Sys2Proof.Machine.execAwaitSlot s
  | .assert => Sys2Proof.Machine.execAssert s
  | .hold => Sys2Proof.Machine.execHold s
  | .deassert => Sys2Proof.Machine.execDeassert s
  | .advance => Sys2Proof.Machine.execAdvance s
  | .done => Sys2Proof.Machine.execDone s
  | .assertPN => Sys2Proof.Machine.execAssertPN s
  | .deassertPN => Sys2Proof.Machine.execDeassertPN s
  | .assertPI => Sys2Proof.Machine.execAssertPI s
  | .deassertPI => Sys2Proof.Machine.execDeassertPI s
  | .assertAN => Sys2Proof.Machine.execAssertAN s
  | .deassertAN => Sys2Proof.Machine.execDeassertAN s
  | .assertAI => Sys2Proof.Machine.execAssertAI s
  | .deassertAI => Sys2Proof.Machine.execDeassertAI s
  | .dur bit => Sys2Proof.Machine.execDur bit s
  | .now => Sys2Proof.Machine.execNow s
  | .sym0 => Sys2Proof.Machine.execSym0 s
  | .sym1 => Sys2Proof.Machine.execSym1 s

end Sys2Proof.Machine
end

