-- ==== Sys2Proof/Machine/Step.lean ====
section
/-! DEFINITION. One step: fetch, decode, run. -/

namespace Sys2Proof.Machine

/-- The host's command runs first; without it the micro-step that `ST` selects runs (R72, R80). Nothing else is taken
from outside (R145), but on a component bench (log 11). -/
def step (s : State) : Host.Outcome State Fault Refusal :=
  if s.intruded then .refused .noSuchInteraction
  else
    match decode s.cfg (fetch s).1 (fetch s).2 with
    | .ok i => exec i (taken s)
    | .error e => .refused (.undecodable e)

/-- `s` with the operation whose bits are `w` (numbered as spec/opcode_table.json numbers them, operand bits zero)
placed where `step` fetches: a micro-step in the state register; a command issued by the host, to a block with no call
in progress; an operation of a component on the component bench (log 10, log 11, log 15). -/
def State.withFetchWord (s : State) (nbits w : Nat) : State :=
  { s with
    cfg := { s.cfg with
      bench := match tableFormat nbits w with
        | .st => s.cfg.bench
        | .cmd => s.cfg.bench
        | _ => true }
    request := requestOf (tableFormat nbits w) w
    st := match tableFormat nbits w with
      | .st => (LoopState.ofCode w).getD s.st
      | _ => if s.accepting then s.st else .idle }

end Sys2Proof.Machine
end

