-- ==== Sys2Proof/Safety.lean ====
section
/-! DEFINITION. The terms in which claims about the block are made: which calls are well formed (R147), which
states are well formed, what a run is, and the waveform a call is meant to produce (R66, R95, R140). -/

namespace Sys2Proof

/-! ### Calls -/

/-- The arguments fit their fields (R60). -/
def Command.fits (c : Config) (k : Command) : Prop :=
  argumentsFit c k.a0 k.a1 k.a2 k.a3 k.a4 k.a5 = true

/-- R147 (b) and (c): the end is not before the start, and a primary-bank line exists. -/
def Command.defined (c : Config) (k : Command) : Prop :=
  k.a0 ≤ k.a1 ∧ (k.alt = false → k.a2 < c.nl)

/-- R147 (d): the Timing Parameters invariant of R12. -/
def Command.timingInvariant (k : Command) : Prop :=
  0 < k.a3 ∧ k.a3 < k.a5 ∧ 0 < k.a4 ∧ k.a4 < k.a5

/-- `N = a1 - a0` (R64). -/
def Command.length (k : Command) : Nat := k.a1 - k.a0

end Sys2Proof

namespace Sys2Proof.Machine

/-- R147 (e): the bytes at `a0 .. a1 - 1` can be read. -/
def Memory.readable (m : Memory) (a0 a1 : Nat) : Prop :=
  ∀ a, a0 ≤ a → a < a1 → ∃ b, m.read a = some b

/-- A call is in progress (R23: `ST` is neither `IDLE` nor `DONE`). -/
def State.running (s : State) : Prop := s.st ≠ .idle ∧ s.st ≠ .done

/-- The level of the call's line in each loop state: asserted from the assert to the de-assert (R67), de-asserted at
every other time (R147 (i)). -/
def State.expectedLine (s : State) : Bool :=
  if s.st = .hold ∨ s.st = .deassert then !s.inv else s.inv

/-! ### Well-formed states -/

/-- The state is one the hardware can hold: every register has its width (R10, R24 to R26), memory is in its
canonical form, the mask is one-hot (R22), a running call has a current byte (R16) inside its buffer (R21) and a
line (R13), and the trace is stamped and ordered (R31, R49). -/
structure State.Inv (s : State) : Prop where
  legal : s.cfg.legal = true
  mem_wf : s.mem.wf = true
  mem_addr : ∀ x ∈ s.mem, x.1 < 2 ^ s.cfg.aw
  endAddr_fits : s.endAddr < 2 ^ s.cfg.aw
  ptr_fits : s.ptr < 2 ^ s.cfg.aw
  sh_fits : s.sh < 2 ^ s.cfg.ccw
  lh_fits : s.lh < 2 ^ s.cfg.ccw
  per_fits : s.per < 2 ^ s.cfg.ccw
  tstart_fits : s.tstart < 2 ^ s.cfg.ccw
  tprev_fits : s.tprev < 2 ^ s.cfg.ccw
  c0_fits : s.c0 < 2 ^ s.cfg.ccw
  pin_fits : s.pin < 2 ^ s.cfg.pw
  pout_fits : s.pout < 2 ^ s.cfg.nl
  aout_fits : s.aout < 2 ^ s.cfg.aow
  mask_oneHot : ∃ i < 8, s.mask = 1#8 <<< i
  in_buffer : s.running → s.ptr < s.endAddr
  current_byte : s.running → s.mem.read s.ptr = some s.cur
  line_exists : s.running → s.alt = false → s.pin < s.cfg.nl
  repoll_waits : s.repoll = true → s.st = .awaitSlot ∨ s.st = .hold
  trace_stamped : ∀ e ∈ s.wtrace, e.c = (s.c0 + e.t) % 2 ^ s.cfg.ccw ∧ e.t ≤ s.t + s.cfg.wlat
  trace_ordered : s.wtrace.Pairwise fun e f => e.t ≤ f.t

/-! ### Runs -/

/-- One step of the machine leads from `s` to `s'`. -/
def Steps (s s' : State) : Prop := step s = .next s'

/-- Some number of steps leads from `s` to `s'`. -/
def Reaches : State → State → Prop := Relation.ReflTransGen Steps

/-- The host issues command `k` in `s0` and the block takes it: `s` is the state after rule R80. Nothing else is
issued. -/
structure Started (k : Command) (s0 s : State) : Prop where
  inv : s0.Inv
  quiet : s0.request = none
  fits : k.fits s0.cfg
  accepted : exec k.instr s0 = .next s

/-! ### The waveform -/

/-- The bit that slot `j` of the frame carries: bit `7 - (j mod 8)` of byte `j div 8` (R66). -/
def frameBit (m : Memory) (a0 : Nat) (j : Nat) : Bool :=
  match m.read (a0 + j / 8) with
  | some b => b.getLsbD (7 - j % 8)
  | none => false

/-- The bank a call drives (R15). -/
def bankOf (alt : Bool) : Bank := if alt then .alternate else .primary

end Sys2Proof.Machine

namespace Sys2Proof

open Machine

/-- `dur_j`: the duration of slot `j` (R93). -/
def Command.slotDuration (k : Command) (m : Memory) (j : Nat) : Nat :=
  if frameBit m k.a0 j then k.a4 else k.a3

/-- `A_j` of the ideal profile (R95), from the time `t0` of the priming sample. -/
def Command.idealStart (k : Command) (m : Memory) (t0 : Nat) : Nat → Nat
  | 0 => t0
  | j + 1 => k.idealStart m t0 j + max k.a5 (k.slotDuration m j)

/-- The bit of its bank a call drives: `PIN` or `ABIT` (R31). -/
def Command.lineBit (k : Command) (c : Config) : Nat := if k.alt then c.abit else k.a2

/-- The trace entry of a write of `level` to the call's line at time `t` with latency `WLAT` (R31). -/
def Command.entryAt (k : Command) (c : Config) (c0 : Nat) (t : Nat) (level : Bool) : TraceEntry :=
  { t := t + c.wlat, c := (c0 + (t + c.wlat)) % 2 ^ c.ccw, port := bankOf k.alt, bit := k.lineBit c,
    level := level }

/-- The two writes of slot `j` when it starts at `a` and lasts `dur`: assert, de-assert (R67, R112). -/
def Command.pulse (k : Command) (c : Config) (c0 : Nat) (a dur : Nat) : List TraceEntry :=
  [k.entryAt c c0 a (!k.inv), k.entryAt c c0 (a + dur) k.inv]

/-- The writes of a whole call whose slot `j` starts at `start j` (R140: "in that order and nothing else"). -/
def Command.waveform (k : Command) (c : Config) (c0 : Nat) (m : Memory) (start : Nat → Nat) :
    List TraceEntry :=
  (List.range (8 * k.length)).flatMap fun j => k.pulse c c0 (start j) (k.slotDuration m j)

end Sys2Proof

namespace Sys2Proof.Machine

/-- The entry with its level complemented (R114). -/
def TraceEntry.complement (e : TraceEntry) : TraceEntry := { e with level := !e.level }

/-- The GPIO registers after one logged write (R101 to R103). -/
def applyEntry (c : Config) (r : Nat × Nat) (e : TraceEntry) : Nat × Nat :=
  match e.port with
  | .primary => (replaceBit c.nl r.1 e.bit e.level, r.2)
  | .alternate => (r.1, replaceBit c.aow r.2 e.bit e.level)

/-! ### The complement relation (R114) -/

/-- `u` is `s` with the opposite polarity: every register but `INV` is the same, every logged level is the
complement, and the GPIO registers agree but for the line the call drives. -/
structure Complementary (s u : State) : Prop where
  same : u = { s with inv := !s.inv, wtrace := s.wtrace.map TraceEntry.complement,
                      pout := u.pout, aout := u.aout }
  pout_same : ∀ i, (s.alt = true ∨ i ≠ s.pin) → u.pout.testBit i = s.pout.testBit i
  aout_same : ∀ i, (s.alt = false ∨ i ≠ s.cfg.abit) → u.aout.testBit i = s.aout.testBit i

end Sys2Proof.Machine
end

