-- ==== Sys2Proof/Certificates/Slice0/Obligations.lean ====
section
/-! DEFINITION. The statements for the provers. A statement about a free value (`Config.freeStall`,
`Config.freeRegister`) or about the environment's draws holds whatever they are. -/

open Sys2Proof Sys2Proof.Machine

/-! ### Encoding -/

/-- The word of every well-formed operation, at every value its fields admit and in every configuration, decodes
to that operation (R60, R61, R70, R72; the order of the fields in a command word is the model's, log 14). -/
def Obligations.DecodeOfEncodeIsTheInstruction : Prop :=
  ∀ (c : Config) (i : Instr), i.wellFormed c = true → decode c (encode c i).1 (encode c i).2 = .ok i

/-- Every word that decodes stands for one well-formed operation, whose word it is. -/
def Obligations.EncodeOfDecodeIsTheWord : Prop :=
  ∀ (c : Config) (f : Format) (w : Nat) (i : Instr), decode c f w = .ok i →
    encode c i = (f, w) ∧ i.wellFormed c = true

/-- The words written out from the tables of spec/30_encoding.md (R61, R70, R72) and from the command encodings of
programs P1, P2, P3 and P5 decode to the operations they stand for. The places of the fields after `op` are the
model's (log 14). -/
def Obligations.WrittenOutWordsDecode : Prop :=
  (decode Config.default .cmd
      (0b00 + 0x1000 * 2 ^ 2 + 0x1001 * 2 ^ 34 + 2 * 2 ^ 66 + 20 * 2 ^ 70 + 52 * 2 ^ 102 + 80 * 2 ^ 134) =
    .ok (.txpn 0x1000 0x1001 2 20 52 80)) ∧
  (decode Config.default .cmd
      (0b01 + 0x2000 * 2 ^ 2 + 0x2002 * 2 ^ 34 + 5 * 2 ^ 66 + 3 * 2 ^ 70 + 7 * 2 ^ 102 + 10 * 2 ^ 134) =
    .ok (.txpi 0x2000 0x2002 5 3 7 10)) ∧
  (decode Config.default .cmd
      (0b10 + 0x3000 * 2 ^ 2 + 0x3001 * 2 ^ 34 + 30 * 2 ^ 70 + 70 * 2 ^ 102 + 100 * 2 ^ 134) =
    .ok (.txan 0x3000 0x3001 0 30 70 100)) ∧
  (decode Config.default .cmd
      (0b11 + 0x4000 * 2 ^ 2 + 0x4000 * 2 ^ 34 + 20 * 2 ^ 70 + 52 * 2 ^ 102 + 80 * 2 ^ 134) =
    .ok (.txai 0x4000 0x4000 0 20 52 80)) ∧
  (decode Config.default .st 0b010 = .ok .assert) ∧
  (decode Config.default .st 0b101 = .ok .advance) ∧
  (decode Config.default .drv 0b011 = .ok .assertPI) ∧
  (decode Config.default .drv 0b110 = .ok .deassertAI) ∧
  (decode Config.default .dur 1 = .ok (.dur true)) ∧
  (decode Config.default .clk 0 = .ok .now) ∧
  (decode Config.default .sym 0 = .ok .sym0) ∧
  (decode Config.default .sym 1 = .ok .sym1)

/-- State code 7 is no micro-step (R72), and a word with a bit past its format is no operation. How many bits a
format has is R67 (`SYM`), R70 (`DRV`), R72 (`ST`), R115 (`DUR`) and R120 (`CLK`); that a command word ends with its
last field, so that a bit past it makes it no command, is the model's choice (log 14). -/
def Obligations.WordsThatEncodeNothingAreRejected : Prop :=
  (∀ c : Config, decode c .st 0b111 = .error .unusedStateCode) ∧
  (∀ (c : Config) (f : Format) (w : Nat), 2 ^ f.width c ≤ w → decode c f w = .error .excessBits)

/-- A step runs the decoded operation: the micro-step that `ST` selects when nothing has been issued from outside,
and otherwise the operation issued, which is thereby taken. A command is always decoded (and refused by its own meaning
during a call); anything else is refused (R145), but on a component bench between calls, where an operation of a
component runs by itself. The port and the bench are the model's (log 10, log 11). -/
def Obligations.StepRunsTheDecodedInstruction : Prop :=
  (∀ s : State, s.request = none → step s = exec s.st.microStep s) ∧
  (∀ (s : State) (r : Request), s.request = some r →
    r.format = .cmd ∨ (s.cfg.bench = true ∧ ¬ s.running) →
    (∀ i : Instr, decode s.cfg r.format r.word = .ok i → step s = exec i { s with request := none }) ∧
    (∀ e : DecodeError, decode s.cfg r.format r.word = .error e → step s = .refused (.undecodable e))) ∧
  (∀ (s : State) (r : Request), s.request = some r →
    ¬ (r.format = .cmd ∨ (s.cfg.bench = true ∧ ¬ s.running)) → step s = .refused .noSuchInteraction)

/-! ### Reset and the invariant -/

/-- The machine starts with `ST = IDLE` (R173) in a well-formed state; with nothing issued it stays as it is. -/
def Obligations.ResetIsIdleAndWellFormed : Prop :=
  State.reset.st = .idle ∧ State.reset.Inv ∧ step State.reset = .next State.reset

/-- Every step, whatever has been issued from outside and whatever the environment draws, leads from a well-formed
state to a well-formed state: widths (R10), one-hot mask (R22), pointer inside the buffer (R21, R53), current byte
(R16), existing line (R13), stamped and ordered trace (R31, R49). -/
def Obligations.EveryStepKeepsTheStateWellFormed : Prop :=
  ∀ s s' : State, s.Inv → step s = .next s' → s'.Inv

/-! ### Commands -/

/-- Each of the four commands, issued to an idle block for a non-empty readable buffer, completes: the state is
that of R170's second column. One counter sample is taken, whose gap may be zero; the GPIO registers, the buffer
and the counter's origin are untouched. -/
def Obligations.CommandOnNonEmptyBufferStartsTheCall : Prop :=
  ∀ (k : Command) (s : State) (b : Byte), s.Inv → s.st = .idle ∨ s.st = .done → k.fits s.cfg → k.defined s.cfg →
    k.a0 < k.a1 → s.mem.read k.a0 = some b →
    ∃ t : State, exec k.instr s = .next t ∧
      t.alt = k.alt ∧ t.inv = k.inv ∧ (k.alt = false → t.pin = k.a2) ∧ t.endAddr = k.a1 ∧
      t.sh = k.a3 ∧ t.lh = k.a4 ∧ t.per = k.a5 ∧ t.ptr = k.a0 ∧ t.mask = 0x80 ∧ t.cur = b ∧
      t.tprev = (t.cc + 2 ^ s.cfg.ccw - k.a5) % 2 ^ s.cfg.ccw ∧ t.st = .awaitSlot ∧ t.wtrace = [] ∧
      s.t ≤ t.t ∧ (s.cfg.profile = .ideal → t.t = s.t) ∧
      t.cfg = s.cfg ∧ t.c0 = s.c0 ∧ t.pout = s.pout ∧ t.aout = s.aout ∧ t.mem = s.mem ∧
      t.request = s.request ∧ t.portOut = s.portOut

/-- Each of the four commands, issued to an idle block for an empty buffer, completes at once (R146): no sample (no
time, no draw), no memory read (the outcome is the same whatever the memory holds), no GPIO write, empty trace. -/
def Obligations.CommandOnEmptyBufferIsDoneAtOnce : Prop :=
  ∀ (k : Command) (s : State), s.Inv → s.st = .idle ∨ s.st = .done → k.fits s.cfg → k.defined s.cfg →
    k.a0 = k.a1 →
    ∃ t : State, exec k.instr s = .next t ∧
      t.st = .done ∧ t.wtrace = [] ∧ t.pout = s.pout ∧ t.aout = s.aout ∧ t.mem = s.mem ∧
      t.t = s.t ∧ t.stalls = s.stalls ∧ t.c0 = s.c0 ∧ t.cfg = s.cfg ∧
      t.request = s.request ∧ t.portOut = s.portOut ∧
      t.alt = k.alt ∧ t.inv = k.inv ∧ (k.alt = false → t.pin = k.a2) ∧ t.endAddr = k.a1 ∧
      t.sh = k.a3 ∧ t.lh = k.a4 ∧ t.per = k.a5 ∧ t.ptr = k.a0 ∧ t.mask = 0x80 ∧
      t.line = (if k.alt then s.aout.testBit s.cfg.abit else s.pout.testBit k.a2) ∧
      ∀ m : Memory, exec k.instr { s with mem := m } = .next { t with mem := m }

/-- The commands the spec gives no meaning to are refused: one issued during a call (U1), one whose end is before
its start (U5), a primary-bank one whose line does not exist (U4). One whose first byte cannot be read gives no
step (U6, log 8, log 9). That the others go on is said by `CommandOnNonEmptyBufferStartsTheCall` and
`CommandOnEmptyBufferIsDoneAtOnce`. -/
def Obligations.CommandsWithoutMeaningAreStopped : Prop :=
  ∀ (k : Command) (s : State), k.fits s.cfg →
    (s.running → exec k.instr s = .refused .commandDuringCall) ∧
    (¬ s.running → k.a1 < k.a0 → exec k.instr s = .refused .endBeforeStart) ∧
    (¬ s.running → k.a0 ≤ k.a1 → k.alt = false → s.cfg.nl ≤ k.a2 → exec k.instr s = .refused .noSuchLine) ∧
    (¬ s.running → k.defined s.cfg → k.a0 < k.a1 → s.mem.read k.a0 = none →
      exec k.instr s = .refused .stuckRead)

/-- R63: an alternate variant does not read `a2`, and its line is that of the alternate register. -/
def Obligations.AlternateVariantsIgnoreTheLineIndex : Prop :=
  ∀ (a0 a1 a2 a2' a3 a4 a5 : Nat) (s : State),
    exec (.txan a0 a1 a2 a3 a4 a5) s = exec (.txan a0 a1 a2' a3 a4 a5) s ∧
    exec (.txai a0 a1 a2 a3 a4 a5) s = exec (.txai a0 a1 a2' a3 a4 a5) s ∧
    (∀ t : State, exec (.txan a0 a1 a2 a3 a4 a5) s = .next t ∨ exec (.txai a0 a1 a2 a3 a4 a5) s = .next t →
      t.line = t.aout.testBit t.cfg.abit)

/-- No value carries from one call to the next (R171): two idle blocks that agree on what is outside them answer
every command alike, whatever their latches and transmission registers hold. -/
def Obligations.NoValueCarriesFromOneCallToTheNext : Prop :=
  ∀ (k : Command) (s u : State), ¬ s.running → ¬ u.running →
    u.cfg = s.cfg → u.pout = s.pout → u.aout = s.aout → u.mem = s.mem → u.t = s.t → u.c0 = s.c0 →
    u.request = s.request → u.stalls = s.stalls → u.draws = s.draws → u.portOut = s.portOut →
    exec k.instr u = exec k.instr s

/-- Between calls and with no command the block does nothing (R80, R86). That the registers keep their values then
is the model's choice (R171 allows it, log 17). -/
def Obligations.IdleAndDoneWithoutACommandDoNothing : Prop :=
  ∀ s : State, s.request = none → exec .idle s = .next s ∧ exec .done s = .next s

/-- In `IDLE` and in `DONE` alike the block takes the command the host has issued (R80, R86). -/
def Obligations.IdleAndDoneTakeTheHostsCommand : Prop :=
  ∀ (s : State) (w : Nat) (i : Instr), s.request = some (.cmd w) → decode s.cfg .cmd w = .ok i →
    exec .idle s = exec i { s with request := none } ∧ exec .done s = exec i { s with request := none }

/-- `IDLE` and `DONE` with a command issued, by its word, for a non-empty readable buffer: the step completes, takes
what was issued and starts the call (R80, R86). The word's layout is the model's (log 14). -/
def Obligations.IdleAndDoneStartTheIssuedCommand : Prop :=
  ∀ (k : Command) (s : State) (b : Byte), s.Inv → s.st = .idle ∨ s.st = .done → k.fits s.cfg → k.defined s.cfg →
    k.a0 < k.a1 → s.mem.read k.a0 = some b → s.request = some (.cmd (encode s.cfg k.instr).2) →
    ∃ t : State, exec .idle s = .next t ∧ exec .done s = .next t ∧ step s = .next t ∧
      t.request = none ∧ t.st = .awaitSlot ∧ t.alt = k.alt ∧ t.inv = k.inv ∧ t.ptr = k.a0 ∧ t.endAddr = k.a1 ∧
      t.sh = k.a3 ∧ t.lh = k.a4 ∧ t.per = k.a5 ∧ t.mask = 0x80 ∧ t.cur = b ∧ t.wtrace = [] ∧
      t.mem = s.mem ∧ t.pout = s.pout ∧ t.aout = s.aout

/-! ### The loop -/

/-- R81: one sample and one modular unsigned test; the step writes nothing but `TSTART` and `ST` (and the
environment's time, its draws and the re-poll mark). The sample is at least one tick after a failed test (R123), of
which the re-poll mark keeps the record (log 7). -/
def Obligations.AwaitSlotTakesOneSampleAndTestsThePeriod : Prop :=
  ∀ s : State, s.Inv → ∃ (g : Nat) (t : State),
    (s.repoll = true → 1 ≤ g) ∧ exec .awaitSlot s = .next t ∧
    t = { s with st := t.st, tstart := t.tstart, t := s.t + g,
                 stalls := t.stalls, draws := t.draws, repoll := t.repoll } ∧
    (if s.per ≤ ((s.c0 + (s.t + g)) % 2 ^ s.cfg.ccw + 2 ^ s.cfg.ccw - s.tprev) % 2 ^ s.cfg.ccw then
      t.st = .assert ∧ t.tstart = (s.c0 + (s.t + g)) % 2 ^ s.cfg.ccw ∧ t.repoll = false
    else t.st = .awaitSlot ∧ t.tstart = s.tstart ∧ t.repoll = true)

/-- R83: one sample and one modular unsigned test against the duration of the current bit, measured from `TSTART`;
the step writes nothing but `ST` (and the environment's time, its draws and the re-poll mark). The sample is at least
one tick after a failed test (R123), of which the re-poll mark keeps the record (log 7). -/
def Obligations.HoldTakesOneSampleAndTestsTheDuration : Prop :=
  ∀ s : State, s.Inv → ∃ (g : Nat) (t : State),
    (s.repoll = true → 1 ≤ g) ∧ exec .hold s = .next t ∧
    t = { s with st := t.st, t := s.t + g, stalls := t.stalls, draws := t.draws, repoll := t.repoll } ∧
    (if (if (s.cur &&& s.mask) ≠ 0 then s.lh else s.sh) ≤
        ((s.c0 + (s.t + g)) % 2 ^ s.cfg.ccw + 2 ^ s.cfg.ccw - s.tstart) % 2 ^ s.cfg.ccw then
      t.st = .deassert ∧ t.repoll = false
    else t.st = .hold ∧ t.repoll = true)

/-- R82 and R84: the step is the micro-operation selected by `{ALT, INV, ACT}` (R100) and the next state; it takes
no sample and changes no block register other than `ST`. -/
def Obligations.AssertAndDeassertDriveTheSelectedOperation : Prop :=
  ∀ s : State,
    (∃ t : State, exec (Instr.driver s.alt s.inv true) s = .next t ∧
      t = { s with pout := t.pout, aout := t.aout, wtrace := t.wtrace } ∧
      exec .assert s = .next { t with st := .hold }) ∧
    (∃ t : State, exec (Instr.driver s.alt s.inv false) s = .next t ∧
      t = { s with pout := t.pout, aout := t.aout, wtrace := t.wtrace } ∧
      exec .deassert s = .next { t with st := .advance })

/-- R85: the baseline becomes the slot's own observed start; the mask moves on; at a byte boundary the mask is
reloaded, the pointer moves on and either the call is over, with no read, or the next byte is fetched. Nothing else
is written, no sample is taken. A next byte that cannot be read gives no step (U6): that the model then stops, by the
name `stuckRead` and without any partial effect, is DEDUCED (log 8, log 9). -/
def Obligations.AdvanceMovesToTheNextBitByteOrEnd : Prop :=
  ∀ s : State, s.Inv → s.st = .advance →
    (s.mask >>> 1 ≠ 0 →
      exec .advance s = .next { s with tprev := s.tstart, mask := s.mask >>> 1, st := .awaitSlot }) ∧
    (s.mask >>> 1 = 0 → s.ptr + 1 = s.endAddr →
      exec .advance s = .next { s with tprev := s.tstart, mask := 0x80, ptr := s.ptr + 1, st := .done }) ∧
    (∀ b : Byte, s.mask >>> 1 = 0 → s.ptr + 1 ≠ s.endAddr → s.mem.read (s.ptr + 1) = some b →
      exec .advance s =
        .next { s with tprev := s.tstart, mask := 0x80, ptr := s.ptr + 1, cur := b, st := .awaitSlot }) ∧
    (s.mask >>> 1 = 0 → s.ptr + 1 ≠ s.endAddr → s.mem.read (s.ptr + 1) = none →
      exec .advance s = .refused .stuckRead)

/-- R89: the transitions of `ST` are exactly those of the table. An operation of a component issued on its own,
which the model runs on a component bench between calls only (log 11), changes no `ST`. -/
def Obligations.LoopTransitionsAreThoseOfTheTable : Prop :=
  ∀ s s' : State, s.Inv → step s = .next s' →
    match s.request with
    | some (.cmd w) =>
      ¬ s.running ∧ (((commandOfWord s.cfg w).a0 = (commandOfWord s.cfg w).a1 ∧ s'.st = .done) ∨
        ((commandOfWord s.cfg w).a0 < (commandOfWord s.cfg w).a1 ∧ s'.st = .awaitSlot))
    | some _ => s.cfg.bench = true ∧ ¬ s.running ∧ s'.st = s.st
    | none =>
      match s.st with
      | .idle => s'.st = .idle
      | .done => s'.st = .done
      | .awaitSlot => s'.st = if s.per ≤ subMod s.cfg.ccw s'.cc s.tprev then .assert else .awaitSlot
      | .assert => s'.st = .hold
      | .hold => s'.st = if s.currentDuration ≤ subMod s.cfg.ccw s'.cc s.tstart then .deassert else .hold
      | .deassert => s'.st = .advance
      | .advance => s'.st = if s.mask >>> 1 ≠ 0 then .awaitSlot
          else if s.ptr + 1 ≠ s.endAddr then .awaitSlot else .done

/-- R116: the bit the loop tests is bit `i` of `CUR` where `MASK = 1 << i`. -/
def Obligations.CurrentBitIsTheBitTheMaskSelects : Prop :=
  ∀ (s : State) (i : Nat), i < 8 → s.mask = 1#8 <<< i → s.currentBit = s.cur.getLsbD i

/-! ### The Pulse Driver -/

/-- R104 to R107: the four primary-bank micro-operations complete in every well-formed state. Bit `PIN` of `POUT`
takes the row's level whatever it held, no other bit changes, the write is logged, and nothing else changes; if the
primary bank is selected `LINE` takes the level. What happens when `PIN` is no line of the bank (no bit changes, the
write is logged) is the model's choice (log 26). -/
def Obligations.PrimaryMicroOperationsDriveOneLine : Prop :=
  ∀ s : State, s.Inv → ∀ p ∈ [(Instr.assertPN, true), (Instr.deassertPN, false),
      (Instr.assertPI, false), (Instr.deassertPI, true)],
    ∃ t : State, exec p.1 s = .next t ∧
      t = { s with
        pout := t.pout
        wtrace := s.wtrace ++ [{ t := s.t + s.cfg.wlat, c := (s.c0 + (s.t + s.cfg.wlat)) % 2 ^ s.cfg.ccw,
                                 port := .primary, bit := s.pin, level := p.2 }] } ∧
      (∀ j : Nat, t.pout.testBit j = if j = s.pin ∧ s.pin < s.cfg.nl then p.2 else s.pout.testBit j) ∧
      (s.alt = false → s.pin < s.cfg.nl → t.line = p.2)

/-- R108 to R111: the four alternate-bank micro-operations complete in every well-formed state. Bit `ABIT` of `AOUT`
takes the row's level whatever it held, every other bit is written back with the value read, the write is logged,
and nothing else changes; if the alternate bank is selected `LINE` takes the level. -/
def Obligations.AlternateMicroOperationsDriveOneLine : Prop :=
  ∀ s : State, s.Inv → ∀ p ∈ [(Instr.assertAN, true), (Instr.deassertAN, false),
      (Instr.assertAI, false), (Instr.deassertAI, true)],
    ∃ t : State, exec p.1 s = .next t ∧
      t = { s with
        aout := t.aout
        wtrace := s.wtrace ++ [{ t := s.t + s.cfg.wlat, c := (s.c0 + (s.t + s.cfg.wlat)) % 2 ^ s.cfg.ccw,
                                 port := .alternate, bit := s.cfg.abit, level := p.2 }] } ∧
      (∀ j : Nat, t.aout.testBit j = if j = s.cfg.abit then p.2 else s.aout.testBit j) ∧
      (s.alt = true → t.line = p.2)

/-- R112: in all eight micro-operations the level written is `ACT XOR INV`, and the register is chosen by `ALT`
alone. That a write to a line the bank does not have is logged and changes no bit is the model's choice (log 26). -/
def Obligations.LevelIsActXorInvAndBankIsAlt : Prop :=
  ∀ (alt inv act : Bool) (s : State), ∃ (t : State) (e : TraceEntry),
    exec (Instr.driver alt inv act) s = .next t ∧ t.wtrace = s.wtrace ++ [e] ∧
    e.level = xor act inv ∧ e.port = bankOf alt ∧
    (t.pout, t.aout) = applyEntry s.cfg (s.pout, s.aout) e ∧
    (alt = true → t.pout = s.pout) ∧ (alt = false → t.aout = s.aout)

/-! ### The Bit Timing Selector, the Cycle Clock Reader, the symbols -/

/-- R115: `DUR(bit)` returns `LH` for 1 and `SH` for 0, as given, and writes no register. -/
def Obligations.DurReturnsTheDurationOfItsBit : Prop :=
  ∀ (bit : Bool) (s : State), exec (.dur bit) s = .next { s with portOut := if bit then s.lh else s.sh }

/-- R120: `NOW` lets the environment advance `T` by a gap of at least `gmin` and returns `(C0 + T) mod 2^CCW` of
that instant; it writes no register of the block and not the counter's origin. -/
def Obligations.NowReturnsTheCounterAfterAGap : Prop :=
  ∀ s : State, s.Inv → ∃ (g : Nat) (t : State), (s.repoll = true → 1 ≤ g) ∧ exec .now s = .next t ∧
    t = { s with t := s.t + g, portOut := (s.c0 + (s.t + g)) % 2 ^ s.cfg.ccw, stalls := t.stalls,
                 draws := t.draws, repoll := t.repoll }

/-- R123 to R125, at every counter sample (a poll of `AWAIT_SLOT` or `HOLD`, the priming sample of an accepted command,
a `NOW` on its own): in every profile time does not run back and a re-poll takes at least a tick; in the bounded-stall
profile no gap exceeds `J`; in the ideal profile a re-poll advances time by one tick and every other sample by none.
Which samples are re-polls is kept by the re-poll mark (log 7); `NOW` on its own is the model's (log 11). -/
def Obligations.GapsFollowTheProfile : Prop :=
  ∀ s t : State, s.cfg.legal = true →
    (∀ i ∈ [Instr.now, Instr.awaitSlot, Instr.hold], exec i s = .next t →
      s.t ≤ t.t ∧ (s.repoll = true → 1 ≤ t.t - s.t) ∧
      (∀ J : Nat, s.cfg.profile = .bounded J → t.t - s.t ≤ J) ∧
      (s.cfg.profile = .ideal → t.t - s.t = if s.repoll then 1 else 0)) ∧
    (∀ k : Command, exec k.instr s = .next t →
      s.t ≤ t.t ∧ (∀ J : Nat, s.cfg.profile = .bounded J → t.t - s.t ≤ J) ∧ (s.cfg.profile = .ideal → t.t = s.t))

/-- R123 and R124, at every counter sample (a poll of `AWAIT_SLOT` or `HOLD`, the priming sample of an accepted command,
a `NOW` on its own): the draw is free, subject only to the lower bound and, in the bounded-stall profile, to `J`; every
gap between the bounds is drawn by some environment. The list of draws is the model's form of the environment
(log 5), the re-poll mark is log 7, and `NOW` on its own is log 11. -/
def Obligations.EveryGapFromTheLowerBoundCanBeDrawn : Prop :=
  ∀ (s : State) (g : Nat), s.cfg.profile = .general ∨ (∃ J : Nat, s.cfg.profile = .bounded J ∧ g ≤ J) →
    ((s.repoll = true → 1 ≤ g) → ∀ i ∈ [Instr.now, Instr.awaitSlot, Instr.hold],
      ∃ (x : Nat) (t : State), exec i { s with stalls := x :: s.stalls } = .next t ∧ t.t = s.t + g) ∧
    (∀ (k : Command) (b : Byte), s.st = .idle ∨ s.st = .done → k.fits s.cfg → k.defined s.cfg → k.a0 < k.a1 →
      s.mem.read k.a0 = some b →
      ∃ (x : Nat) (t : State), exec k.instr { s with stalls := x :: s.stalls } = .next t ∧ t.t = s.t + g)

/-- R122: the difference of two samples is the elapsed time modulo `2^CCW`, so it is the elapsed time exactly when
that is below `2^CCW`, and otherwise too small by a multiple of `2^CCW`. -/
def Obligations.ElapsedTimeIsExactBelowOneWrap : Prop :=
  ∀ w c0 T1 T2 : Nat, T1 ≤ T2 →
    let d := subMod w ((c0 + T2) % 2 ^ w) ((c0 + T1) % 2 ^ w)
    d = (T2 - T1) % 2 ^ w ∧ (d = T2 - T1 ↔ T2 - T1 < 2 ^ w) ∧ ∃ q : Nat, T2 - T1 = d + q * 2 ^ w

/-- R68 and R69: a symbol completes and is one pulse on the call's line: asserted at the current time, de-asserted
at least `SH` (`SYM0`) or `LH` (`SYM1`) ticks later, exactly so many in the ideal profile. No block register
changes. That a symbol is an operation of its own, sent from the current time on, is the model's choice (log 13), and
so is what it does on a primary `PIN` that is no line (log 26). -/
def Obligations.SymbolsAreAssertedForTheirDuration : Prop :=
  ∀ s : State, s.Inv → ∀ p ∈ [(Instr.sym0, s.sh), (Instr.sym1, s.lh)],
    ∃ (t : State) (a d : TraceEntry), exec p.1 s = .next t ∧
      t = { s with pout := t.pout, aout := t.aout, wtrace := s.wtrace ++ [a, d], t := t.t,
                   stalls := t.stalls, draws := t.draws, repoll := t.repoll } ∧
      a.level = (!s.inv) ∧ d.level = s.inv ∧
      a.port = bankOf s.alt ∧ d.port = bankOf s.alt ∧
      a.bit = (if s.alt then s.cfg.abit else s.pin) ∧ d.bit = a.bit ∧
      a.t = s.t + s.cfg.wlat ∧ d.t = t.t + s.cfg.wlat ∧ a.t + p.2 ≤ d.t ∧
      (s.cfg.profile = .ideal → d.t = a.t + p.2) ∧
      (∀ J : Nat, s.cfg.profile = .bounded J → 1 ≤ p.2 → d.t ≤ a.t + p.2 + (J - 1)) ∧
      (∀ j : Nat, (s.alt = true ∨ j ≠ s.pin) → t.pout.testBit j = s.pout.testBit j) ∧
      (∀ j : Nat, (s.alt = false ∨ j ≠ s.cfg.abit) → t.aout.testBit j = s.aout.testBit j)

/-- In the ideal profile the loop's own `ASSERT`, `HOLD` and `DEASSERT` steps send exactly the symbol of the current
bit (R67, R95): they reach `ADVANCE` with the trace, the GPIO registers and the time the symbol leaves. -/
def Obligations.LoopSendsTheSymbolOfTheCurrentBit : Prop :=
  ∀ s t : State, s.Inv → s.request = none → s.cfg.profile = .ideal → s.st = .assert → s.tstart = s.cc →
    exec (Instr.symbol s.currentBit) s = .next t →
    ∃ s' : State, Reaches s s' ∧ s'.st = .advance ∧ s'.wtrace = t.wtrace ∧ s'.pout = t.pout ∧
      s'.aout = t.aout ∧ s'.t = t.t ∧ s'.ptr = s.ptr ∧ s'.mask = s.mask ∧ s'.tstart = s.tstart

/-! ### What no step does -/

/-- R41: the block never writes `Mem`. Every byte of memory reads after any operation, and after any step, as it did
before. -/
def Obligations.NoOperationWritesMemory : Prop :=
  (∀ (i : Instr) (s t : State), exec i s = .next t → ∀ a : Nat, t.memRead a = s.memRead a) ∧
  (∀ s t : State, step s = .next t → t.mem = s.mem)

/-- The counter is read-only to the block and never runs back (R24, R121), no parameter changes (R5), and time
passes only at counter samples (R123): an operation that takes none leaves `T` as it was. -/
def Obligations.TimePassesOnlyAtSamplesAndNeverRunsBack : Prop :=
  ∀ (i : Instr) (s t : State), exec i s = .next t →
    t.c0 = s.c0 ∧ t.cfg = s.cfg ∧ s.t ≤ t.t ∧ t.cc = (s.cc + (t.t - s.t)) % 2 ^ s.cfg.ccw ∧
    ((i ∈ [.assert, .deassert, .advance, .assertPN, .deassertPN, .assertPI, .deassertPI, .assertAN, .deassertAN,
        .assertAI, .deassertAI, .dur true, .dur false]) → t.t = s.t ∧ t.stalls = s.stalls)

/-- R25 and R26: the block changes no bit of the primary bank but `PIN` and no bit of the alternate register but
`ABIT`; while a call runs with nothing else issued, it touches only the bank its variant selects. -/
def Obligations.NoOtherLineIsDisturbed : Prop :=
  ∀ s t : State, s.Inv → step s = .next t →
    (∀ j : Nat, j ≠ s.pin → t.pout.testBit j = s.pout.testBit j) ∧
    (∀ j : Nat, j ≠ s.cfg.abit → t.aout.testBit j = s.aout.testBit j) ∧
    (s.request = none → s.alt = false → t.aout = s.aout) ∧
    (s.request = none → s.alt = true → t.pout = s.pout)

/-- R10 (a), R131: the operand latches are written once, when a call starts, and no step changes them while it
runs; the bit being sent and its duration do not change during a slot (R117). -/
def Obligations.LatchesAreFixedDuringACall : Prop :=
  ∀ s t : State, s.running → step s = .next t →
    t.alt = s.alt ∧ t.inv = s.inv ∧ t.pin = s.pin ∧ t.endAddr = s.endAddr ∧
    t.sh = s.sh ∧ t.lh = s.lh ∧ t.per = s.per ∧
    (s.st ≠ .advance → t.ptr = s.ptr ∧ t.mask = s.mask ∧ t.cur = s.cur ∧ t.tprev = s.tprev ∧
      t.currentDuration = s.currentDuration)

/-- R31: the write trace accounts for the GPIO registers. A step that takes a command, and no other, empties it, and
writes no register; every other step appends entries, and the registers after it are the registers before it with
those writes done in order. -/
def Obligations.TraceAccountsForEveryGpioWrite : Prop :=
  ∀ s t : State, step s = .next t →
    match s.request with
    | some (.cmd _) => t.wtrace = [] ∧ t.pout = s.pout ∧ t.aout = s.aout
    | _ => ∃ es : List TraceEntry, t.wtrace = s.wtrace ++ es ∧
        (t.pout, t.aout) = es.foldl (applyEntry s.cfg) (s.pout, s.aout)

/-- R67, R82, R84, R98: the line is at the asserted level exactly in `HOLD` and `DEASSERT`. Every step with nothing
else issued keeps that, whatever the state; `ASSERT` and `DEASSERT` establish it, whatever level the line had; and a
call that starts with its line de-asserted (R147 (i)) starts with it. -/
def Obligations.LineIsAssertedExactlyInHoldAndDeassert : Prop :=
  (∀ s t : State, s.Inv → s.request = none → step s = .next t →
    (s.line = s.expectedLine → t.line = t.expectedLine) ∧
    (s.st = .assert ∨ s.st = .deassert → t.line = t.expectedLine)) ∧
  (∀ (k : Command) (s t : State), k.fits s.cfg → exec k.instr s = .next t →
    (if k.alt then s.aout.testBit s.cfg.abit else s.pout.testBit k.a2) = k.inv → t.line = t.expectedLine)

/-- No operation and no step has a fault outcome (R150). The block is stuck only where the byte it has to fetch, the
next one of a running call or the first one of a command, cannot be read (U6, log 8), and nothing else stops a state
in which nothing has been issued: it takes a next step whenever the rest of its buffer can be read. -/
def Obligations.OnlyAnUnreadableByteStopsARunningCall : Prop :=
  (∀ (i : Instr) (s : State) (f : Fault), exec i s ≠ .fault f ∧ step s ≠ .fault f) ∧
  (∀ s : State, s.Inv → step s = .refused .stuckRead →
    (s.request = none ∧ s.st = .advance ∧ s.mask >>> 1 = 0 ∧ s.ptr + 1 < s.endAddr ∧
      s.memRead (s.ptr + 1) = none) ∨
    (∃ w : Nat, s.request = some (.cmd w) ∧ ¬ s.running ∧
      (commandOfWord s.cfg w).a0 < (commandOfWord s.cfg w).a1 ∧ s.memRead (commandOfWord s.cfg w).a0 = none)) ∧
  (∀ (s : State) (why : Refusal), s.request = none → step s = .refused why → why = .stuckRead) ∧
  (∀ s : State, s.Inv → s.request = none → s.mem.readable s.ptr s.endAddr →
    ∃ t : State, step s = .next t)

/-- R40, R45: a step of a running call reads no byte outside the rest of its buffer. With any memory that agrees on
the addresses after `PTR` and before `END`, the step has the same outcome: a byte already read, or outside the
buffer, is not read again. -/
def Obligations.NoByteOutsideTheRestOfTheBufferIsRead : Prop :=
  ∀ (s t : State) (m : Memory), s.Inv → s.running → s.request = none →
    (∀ a : Nat, s.ptr < a → a < s.endAddr → m.read a = s.mem.read a) →
    step s = .next t → step { s with mem := m } = .next { t with mem := m }

/-! ### Whole calls -/

/-- R87: the first slot is not waited for. If `e` ticks pass between the priming sample and the first poll and
`e + PER < 2^CCW`, the first poll passes and its sample is `TSTART`. -/
def Obligations.FirstSlotIsNotWaitedFor : Prop :=
  ∀ (k : Command) (s0 s t : State), Started k s0 s → k.a0 < k.a1 → step s = .next t →
    (t.t - s.t) + k.a5 < 2 ^ s0.cfg.ccw →
    t.st = .assert ∧ t.tstart = t.cc ∧ (s0.cfg.profile = .ideal → t.t = s.t)

/-- R92: a call of an `N`-byte buffer that reaches `DONE` has made exactly `16 N` writes, all to its own line,
entry `2 j` the assert and entry `2 j + 1` the de-assert of slot `j`. -/
def Obligations.CallMakesExactlyEightPulsePairsPerByte : Prop :=
  ∀ (k : Command) (s0 s s' : State), Started k s0 s → Reaches s s' → s'.st = .done →
    s'.wtrace.length = 16 * k.length ∧
    ∀ (n : Nat) (e : TraceEntry), s'.wtrace[n]? = some e →
      e.port = bankOf k.alt ∧ e.bit = k.lineBit s0.cfg ∧ e.level = xor (decide (n % 2 = 0)) k.inv

/-- R93: whatever the environment draws, at every moment of a call no pulse that has ended was shorter than its
bit's duration, no slot started less than `PER` after the one before it, and none before the de-assert of the one
before it. -/
def Obligations.PulsesAreNeverShortAndSlotsNeverEarly : Prop :=
  ∀ (k : Command) (s0 s s' : State), Started k s0 s → Reaches s s' →
    ∀ (j : Nat) (a d : TraceEntry), s'.wtrace[2 * j]? = some a → s'.wtrace[2 * j + 1]? = some d →
      a.t + k.slotDuration s0.mem j ≤ d.t ∧
      ∀ a' : TraceEntry, s'.wtrace[2 * (j + 1)]? = some a' → a.t + k.a5 ≤ a'.t ∧ d.t ≤ a'.t

/-- R94: under a stall bound `J`, with durations and period at least 1 and far from a wrap, every pulse is at most
`J - 1` ticks too long and every slot starts within the stated bounds of the one before it; where every duration
leaves `J` ticks of the period, slot `j` starts between `j * PER` and `j * (PER + J - 1)` after the first. -/
def Obligations.StallBoundLimitsWidthsAndSpacings : Prop :=
  ∀ (k : Command) (s0 s s' : State) (J : Nat), Started k s0 s → Reaches s s' →
    s0.cfg.profile = .bounded J → 1 ≤ k.a3 → 1 ≤ k.a4 → 1 ≤ k.a5 →
    k.a3 + 2 * J < 2 ^ s0.cfg.ccw → k.a4 + 2 * J < 2 ^ s0.cfg.ccw → k.a5 + 2 * J < 2 ^ s0.cfg.ccw →
    (∀ (j : Nat) (a d : TraceEntry), s'.wtrace[2 * j]? = some a → s'.wtrace[2 * j + 1]? = some d →
      a.t + k.slotDuration s0.mem j ≤ d.t ∧ d.t ≤ a.t + k.slotDuration s0.mem j + (J - 1) ∧
      ∀ a' : TraceEntry, s'.wtrace[2 * (j + 1)]? = some a' →
        a.t + k.a5 ≤ a'.t ∧ a'.t ≤ max (a.t + k.a5 + (J - 1)) (d.t + J) ∧
        (k.slotDuration s0.mem j + J ≤ k.a5 → a'.t ≤ a.t + k.a5 + (J - 1))) ∧
    (k.a3 + J ≤ k.a5 → k.a4 + J ≤ k.a5 →
      ∀ (j : Nat) (a0 a : TraceEntry), s'.wtrace[0]? = some a0 → s'.wtrace[2 * j]? = some a →
        a0.t + j * k.a5 ≤ a.t ∧ a.t ≤ a0.t + j * (k.a5 + J - 1))

/-- R95, for every value of the timing arguments: in the ideal profile a call on a readable buffer reaches `DONE`,
and its writes are exactly those of the waveform with `A_0 = t0` and `A_(j+1) = A_j + max(PER, dur_j)`; under the
Timing Parameters invariant `A_j = t0 + j * PER`, with no error at any `j`. -/
def Obligations.IdealCallMakesExactlyTheIdealWaveform : Prop :=
  ∀ (k : Command) (s0 s : State), Started k s0 s → s0.cfg.profile = .ideal → k.a0 < k.a1 →
    s0.mem.readable k.a0 k.a1 →
    ∃ s' : State, Reaches s s' ∧ s'.st = .done ∧ s'.ptr = k.a1 ∧
      s'.wtrace = k.waveform s0.cfg s0.c0 s0.mem (k.idealStart s0.mem s0.t) ∧
      s'.t = k.idealStart s0.mem s0.t (8 * k.length - 1) + k.slotDuration s0.mem (8 * k.length - 1) ∧
      (k.timingInvariant → ∀ j : Nat, k.idealStart s0.mem s0.t j = s0.t + j * k.a5)

/-- R140, R141: under the Timing Parameters invariant the ideal call starts slot `j` at `t0 + j * PER`, with no
error at any `j`, and lasts `(8 N - 1) * PER + dur` of the last slot. -/
def Obligations.IdealCallUnderTheInvariantKeepsThePeriodExactly : Prop :=
  ∀ (k : Command) (s0 s : State), Started k s0 s → s0.cfg.profile = .ideal → k.a0 < k.a1 →
    s0.mem.readable k.a0 k.a1 → k.timingInvariant →
    ∃ s' : State, Reaches s s' ∧ s'.st = .done ∧
      s'.wtrace = k.waveform s0.cfg s0.c0 s0.mem (fun j => s0.t + j * k.a5) ∧
      s'.t = s0.t + (8 * k.length - 1) * k.a5 + k.slotDuration s0.mem (8 * k.length - 1)

/-- R98: a call on a non-empty buffer is over only after its last de-assert: the last write de-asserts the line, no
time has passed since, and the line is left de-asserted. -/
def Obligations.CallEndsRightAfterItsLastDeassert : Prop :=
  ∀ (k : Command) (s0 s s' : State), Started k s0 s → k.a0 < k.a1 → Reaches s s' → s'.st = .done →
    s'.line = k.inv ∧
    ∃ e : TraceEntry, s'.wtrace.getLast? = some e ∧ e.level = k.inv ∧ e.t = s'.t + s0.cfg.wlat

/-- R114, one step: blocks that differ in polarity only, with complementary traces, stay so. -/
def Obligations.ComplementaryBlocksStayComplementary : Prop :=
  ∀ s u s' : State, s.Inv → u.Inv → s.request = none → Complementary s u → step s = .next s' →
    ∃ u' : State, step u = .next u' ∧ Complementary s' u'

/-- R114, whole calls: for the same buffer, timing arguments, line and draws, after any number of steps the inverted
variant has written, entry by entry and at the same times, the complement of the levels the normal variant has
written. -/
def Obligations.InvertedCallWritesTheComplement : Prop :=
  ∀ (k : Command) (s0 s u s' : State) (n : Nat), Started k s0 s → Started { k with inv := !k.inv } s0 u →
    Sys2Proof.core.run n s = .next s' →
    ∃ u' : State, Sys2Proof.core.run n u = .next u' ∧ u'.st = s'.st ∧ u'.t = s'.t ∧
      u'.wtrace = s'.wtrace.map TraceEntry.complement

/-- R127: under a stall bound that keeps a wait away from a wrap, each wait ends. -/
def Obligations.WaitsEndUnderAStallBound : Prop :=
  ∀ (s : State) (J : Nat), s.Inv → s.request = none → s.cfg.profile = .bounded J →
    (s.st = .hold → s.currentDuration + J < 2 ^ s.cfg.ccw →
      ∃ s' : State, Reaches s s' ∧ s'.st = .deassert ∧ s'.wtrace = s.wtrace) ∧
    (s.st = .awaitSlot → s.per + J < 2 ^ s.cfg.ccw →
      ∃ s' : State, Reaches s s' ∧ s'.st = .assert ∧ s'.wtrace = s.wtrace)

/-- R91, R127: under a stall bound that keeps every wait away from a wrap, a running call whose buffer can be read
reaches `DONE`. -/
def Obligations.RunningCallReachesDoneUnderAStallBound : Prop :=
  ∀ (s : State) (J : Nat), s.Inv → s.running → s.request = none → s.cfg.profile = .bounded J →
    s.sh + J < 2 ^ s.cfg.ccw → s.lh + J < 2 ^ s.cfg.ccw → s.per + J < 2 ^ s.cfg.ccw →
    s.mem.readable s.ptr s.endAddr →
    ∃ s' : State, Reaches s s' ∧ s'.st = .done ∧ s'.ptr = s.endAddr

/-! ### The host during a call -/

/-- R145, R187: while a call is in progress nothing is taken from outside. A command is refused, and so is a component
operation; no other step than the call's own is possible until the call is over. (The port is the model's, log 10; so is
the component bench, for which this holds too, log 11.) -/
def Obligations.NothingIsTakenFromOutsideDuringACall : Prop :=
  ∀ s : State, s.running →
    (∀ r : Request, s.request = some r → ∃ why : Refusal, step s = .refused why) ∧
    (∀ (w : Nat) (i : Instr), s.request = some (.cmd w) → decode s.cfg .cmd w = .ok i →
      step s = .refused .commandDuringCall) ∧
    (∀ t : State, step s = .next t → s.request = none ∧ t.request = none ∧ t.portOut = s.portOut)

/-- R145: the block, which is no component bench (log 11), has no interaction with the host but the command. Anything
else that is issued is refused, in every loop state; whatever step it takes, it took a command or nothing, returned no
value, and stays no bench; and between calls, without a command, it does nothing at all (that its registers keep their
values then is log 17). -/
def Obligations.TheCommandIsTheOnlyInteraction : Prop :=
  ∀ s : State, s.cfg.bench = false →
    (∀ r : Request, s.request = some r → r.format ≠ .cmd → step s = .refused .noSuchInteraction) ∧
    (∀ t : State, step s = .next t →
      t.portOut = s.portOut ∧ t.cfg.bench = false ∧ t.request = none ∧
      ((∃ w : Nat, s.request = some (.cmd w) ∧ ¬ s.running) ∨ (s.request = none ∧ (s.running ∨ t = s))))
end

