-- ==== Sys2Proof/Laws/State.lean ====
section
/-! SUPPORT. What each shared update does to each field of the state, and to the functions of the state that it
leaves alone, so that no proof unfolds an update. -/

namespace Sys2Proof.Machine

variable (s : State)

/-! `sample` -/

@[simp] theorem sample_cfg : (sample s).cfg = s.cfg := rfl

@[simp] theorem sample_endAddr : (sample s).endAddr = s.endAddr := rfl

@[simp] theorem sample_sh : (sample s).sh = s.sh := rfl

@[simp] theorem sample_lh : (sample s).lh = s.lh := rfl

@[simp] theorem sample_per : (sample s).per = s.per := rfl

@[simp] theorem sample_pin : (sample s).pin = s.pin := rfl

@[simp] theorem sample_inv : (sample s).inv = s.inv := rfl

@[simp] theorem sample_alt : (sample s).alt = s.alt := rfl

@[simp] theorem sample_st : (sample s).st = s.st := rfl

@[simp] theorem sample_ptr : (sample s).ptr = s.ptr := rfl

@[simp] theorem sample_mask : (sample s).mask = s.mask := rfl

@[simp] theorem sample_cur : (sample s).cur = s.cur := rfl

@[simp] theorem sample_tstart : (sample s).tstart = s.tstart := rfl

@[simp] theorem sample_tprev : (sample s).tprev = s.tprev := rfl

@[simp] theorem sample_pout : (sample s).pout = s.pout := rfl

@[simp] theorem sample_aout : (sample s).aout = s.aout := rfl

@[simp] theorem sample_mem : (sample s).mem = s.mem := rfl

@[simp] theorem sample_t : (sample s).t = s.t + s.gap := rfl

@[simp] theorem sample_c0 : (sample s).c0 = s.c0 := rfl

@[simp] theorem sample_wtrace : (sample s).wtrace = s.wtrace := rfl

@[simp] theorem sample_repoll : (sample s).repoll = false := rfl

@[simp] theorem sample_request : (sample s).request = s.request := rfl

@[simp] theorem sample_stalls : (sample s).stalls = s.stallsAfter := rfl

@[simp] theorem sample_draws : (sample s).draws = s.drawsAfter := rfl

@[simp] theorem sample_portOut : (sample s).portOut = s.portOut := rfl

@[simp] theorem sample_line : (sample s).line = s.line := rfl

@[simp] theorem sample_currentBit : (sample s).currentBit = s.currentBit := rfl

@[simp] theorem sample_currentDuration : (sample s).currentDuration = s.currentDuration := rfl


/-! `elapse` -/

@[simp] theorem elapse_cfg (d : Nat) : (elapse d s).cfg = s.cfg := rfl

@[simp] theorem elapse_endAddr (d : Nat) : (elapse d s).endAddr = s.endAddr := rfl

@[simp] theorem elapse_sh (d : Nat) : (elapse d s).sh = s.sh := rfl

@[simp] theorem elapse_lh (d : Nat) : (elapse d s).lh = s.lh := rfl

@[simp] theorem elapse_per (d : Nat) : (elapse d s).per = s.per := rfl

@[simp] theorem elapse_pin (d : Nat) : (elapse d s).pin = s.pin := rfl

@[simp] theorem elapse_inv (d : Nat) : (elapse d s).inv = s.inv := rfl

@[simp] theorem elapse_alt (d : Nat) : (elapse d s).alt = s.alt := rfl

@[simp] theorem elapse_st (d : Nat) : (elapse d s).st = s.st := rfl

@[simp] theorem elapse_ptr (d : Nat) : (elapse d s).ptr = s.ptr := rfl

@[simp] theorem elapse_mask (d : Nat) : (elapse d s).mask = s.mask := rfl

@[simp] theorem elapse_cur (d : Nat) : (elapse d s).cur = s.cur := rfl

@[simp] theorem elapse_tstart (d : Nat) : (elapse d s).tstart = s.tstart := rfl

@[simp] theorem elapse_tprev (d : Nat) : (elapse d s).tprev = s.tprev := rfl

@[simp] theorem elapse_pout (d : Nat) : (elapse d s).pout = s.pout := rfl

@[simp] theorem elapse_aout (d : Nat) : (elapse d s).aout = s.aout := rfl

@[simp] theorem elapse_mem (d : Nat) : (elapse d s).mem = s.mem := rfl

@[simp] theorem elapse_t (d : Nat) : (elapse d s).t = s.t + d + s.overshoot d := rfl

@[simp] theorem elapse_c0 (d : Nat) : (elapse d s).c0 = s.c0 := rfl

@[simp] theorem elapse_wtrace (d : Nat) : (elapse d s).wtrace = s.wtrace := rfl

@[simp] theorem elapse_repoll (d : Nat) : (elapse d s).repoll = false := rfl

@[simp] theorem elapse_request (d : Nat) : (elapse d s).request = s.request := rfl

@[simp] theorem elapse_stalls (d : Nat) : (elapse d s).stalls = s.stallsAfter := rfl

@[simp] theorem elapse_draws (d : Nat) : (elapse d s).draws = s.drawsAfter := rfl

@[simp] theorem elapse_portOut (d : Nat) : (elapse d s).portOut = s.portOut := rfl

@[simp] theorem elapse_line (d : Nat) : (elapse d s).line = s.line := rfl

@[simp] theorem elapse_currentBit (d : Nat) : (elapse d s).currentBit = s.currentBit := rfl

@[simp] theorem elapse_currentDuration (d : Nat) : (elapse d s).currentDuration = s.currentDuration := rfl


/-! `setPin` -/

@[simp] theorem setPin_cfg : (setPin s).cfg = s.cfg := rfl

@[simp] theorem setPin_endAddr : (setPin s).endAddr = s.endAddr := rfl

@[simp] theorem setPin_sh : (setPin s).sh = s.sh := rfl

@[simp] theorem setPin_lh : (setPin s).lh = s.lh := rfl

@[simp] theorem setPin_per : (setPin s).per = s.per := rfl

@[simp] theorem setPin_pin : (setPin s).pin = s.pin := rfl

@[simp] theorem setPin_inv : (setPin s).inv = s.inv := rfl

@[simp] theorem setPin_alt : (setPin s).alt = s.alt := rfl

@[simp] theorem setPin_st : (setPin s).st = s.st := rfl

@[simp] theorem setPin_ptr : (setPin s).ptr = s.ptr := rfl

@[simp] theorem setPin_mask : (setPin s).mask = s.mask := rfl

@[simp] theorem setPin_cur : (setPin s).cur = s.cur := rfl

@[simp] theorem setPin_tstart : (setPin s).tstart = s.tstart := rfl

@[simp] theorem setPin_tprev : (setPin s).tprev = s.tprev := rfl

@[simp] theorem setPin_pout : (setPin s).pout = setBits s.cfg.nl s.pout s.pinMask := rfl

@[simp] theorem setPin_aout : (setPin s).aout = s.aout := rfl

@[simp] theorem setPin_mem : (setPin s).mem = s.mem := rfl

@[simp] theorem setPin_t : (setPin s).t = s.t := rfl

@[simp] theorem setPin_c0 : (setPin s).c0 = s.c0 := rfl

@[simp] theorem setPin_wtrace : (setPin s).wtrace = s.wtrace ++ [s.entry .primary s.pin true] := rfl

@[simp] theorem setPin_repoll : (setPin s).repoll = s.repoll := rfl

@[simp] theorem setPin_request : (setPin s).request = s.request := rfl

@[simp] theorem setPin_stalls : (setPin s).stalls = s.stalls := rfl

@[simp] theorem setPin_draws : (setPin s).draws = s.draws := rfl

@[simp] theorem setPin_portOut : (setPin s).portOut = s.portOut := rfl

@[simp] theorem setPin_cc : (setPin s).cc = s.cc := rfl

@[simp] theorem setPin_currentBit : (setPin s).currentBit = s.currentBit := rfl

@[simp] theorem setPin_currentDuration : (setPin s).currentDuration = s.currentDuration := rfl


/-! `clearPin` -/

@[simp] theorem clearPin_cfg : (clearPin s).cfg = s.cfg := rfl

@[simp] theorem clearPin_endAddr : (clearPin s).endAddr = s.endAddr := rfl

@[simp] theorem clearPin_sh : (clearPin s).sh = s.sh := rfl

@[simp] theorem clearPin_lh : (clearPin s).lh = s.lh := rfl

@[simp] theorem clearPin_per : (clearPin s).per = s.per := rfl

@[simp] theorem clearPin_pin : (clearPin s).pin = s.pin := rfl

@[simp] theorem clearPin_inv : (clearPin s).inv = s.inv := rfl

@[simp] theorem clearPin_alt : (clearPin s).alt = s.alt := rfl

@[simp] theorem clearPin_st : (clearPin s).st = s.st := rfl

@[simp] theorem clearPin_ptr : (clearPin s).ptr = s.ptr := rfl

@[simp] theorem clearPin_mask : (clearPin s).mask = s.mask := rfl

@[simp] theorem clearPin_cur : (clearPin s).cur = s.cur := rfl

@[simp] theorem clearPin_tstart : (clearPin s).tstart = s.tstart := rfl

@[simp] theorem clearPin_tprev : (clearPin s).tprev = s.tprev := rfl

@[simp] theorem clearPin_pout : (clearPin s).pout = clearBits s.cfg.nl s.pout s.pinMask := rfl

@[simp] theorem clearPin_aout : (clearPin s).aout = s.aout := rfl

@[simp] theorem clearPin_mem : (clearPin s).mem = s.mem := rfl

@[simp] theorem clearPin_t : (clearPin s).t = s.t := rfl

@[simp] theorem clearPin_c0 : (clearPin s).c0 = s.c0 := rfl

@[simp] theorem clearPin_wtrace : (clearPin s).wtrace = s.wtrace ++ [s.entry .primary s.pin false] := rfl

@[simp] theorem clearPin_repoll : (clearPin s).repoll = s.repoll := rfl

@[simp] theorem clearPin_request : (clearPin s).request = s.request := rfl

@[simp] theorem clearPin_stalls : (clearPin s).stalls = s.stalls := rfl

@[simp] theorem clearPin_draws : (clearPin s).draws = s.draws := rfl

@[simp] theorem clearPin_portOut : (clearPin s).portOut = s.portOut := rfl

@[simp] theorem clearPin_cc : (clearPin s).cc = s.cc := rfl

@[simp] theorem clearPin_currentBit : (clearPin s).currentBit = s.currentBit := rfl

@[simp] theorem clearPin_currentDuration : (clearPin s).currentDuration = s.currentDuration := rfl


/-! `writeAlternate` -/

@[simp] theorem writeAlternate_cfg (l : Bool) : (writeAlternate l s).cfg = s.cfg := rfl

@[simp] theorem writeAlternate_endAddr (l : Bool) : (writeAlternate l s).endAddr = s.endAddr := rfl

@[simp] theorem writeAlternate_sh (l : Bool) : (writeAlternate l s).sh = s.sh := rfl

@[simp] theorem writeAlternate_lh (l : Bool) : (writeAlternate l s).lh = s.lh := rfl

@[simp] theorem writeAlternate_per (l : Bool) : (writeAlternate l s).per = s.per := rfl

@[simp] theorem writeAlternate_pin (l : Bool) : (writeAlternate l s).pin = s.pin := rfl

@[simp] theorem writeAlternate_inv (l : Bool) : (writeAlternate l s).inv = s.inv := rfl

@[simp] theorem writeAlternate_alt (l : Bool) : (writeAlternate l s).alt = s.alt := rfl

@[simp] theorem writeAlternate_st (l : Bool) : (writeAlternate l s).st = s.st := rfl

@[simp] theorem writeAlternate_ptr (l : Bool) : (writeAlternate l s).ptr = s.ptr := rfl

@[simp] theorem writeAlternate_mask (l : Bool) : (writeAlternate l s).mask = s.mask := rfl

@[simp] theorem writeAlternate_cur (l : Bool) : (writeAlternate l s).cur = s.cur := rfl

@[simp] theorem writeAlternate_tstart (l : Bool) : (writeAlternate l s).tstart = s.tstart := rfl

@[simp] theorem writeAlternate_tprev (l : Bool) : (writeAlternate l s).tprev = s.tprev := rfl

@[simp] theorem writeAlternate_pout (l : Bool) : (writeAlternate l s).pout = s.pout := rfl

@[simp] theorem writeAlternate_aout (l : Bool) : (writeAlternate l s).aout = replaceBit s.cfg.aow s.aout s.cfg.abit l := rfl

@[simp] theorem writeAlternate_mem (l : Bool) : (writeAlternate l s).mem = s.mem := rfl

@[simp] theorem writeAlternate_t (l : Bool) : (writeAlternate l s).t = s.t := rfl

@[simp] theorem writeAlternate_c0 (l : Bool) : (writeAlternate l s).c0 = s.c0 := rfl

@[simp] theorem writeAlternate_wtrace (l : Bool) : (writeAlternate l s).wtrace = s.wtrace ++ [s.entry .alternate s.cfg.abit l] := rfl

@[simp] theorem writeAlternate_repoll (l : Bool) : (writeAlternate l s).repoll = s.repoll := rfl

@[simp] theorem writeAlternate_request (l : Bool) : (writeAlternate l s).request = s.request := rfl

@[simp] theorem writeAlternate_stalls (l : Bool) : (writeAlternate l s).stalls = s.stalls := rfl

@[simp] theorem writeAlternate_draws (l : Bool) : (writeAlternate l s).draws = s.draws := rfl

@[simp] theorem writeAlternate_portOut (l : Bool) : (writeAlternate l s).portOut = s.portOut := rfl

@[simp] theorem writeAlternate_cc (l : Bool) : (writeAlternate l s).cc = s.cc := rfl

@[simp] theorem writeAlternate_currentBit (l : Bool) : (writeAlternate l s).currentBit = s.currentBit := rfl

@[simp] theorem writeAlternate_currentDuration (l : Bool) : (writeAlternate l s).currentDuration = s.currentDuration := rfl


/-! `enter` -/

@[simp] theorem enter_cfg (x : LoopState) : (enter x s).cfg = s.cfg := rfl

@[simp] theorem enter_endAddr (x : LoopState) : (enter x s).endAddr = s.endAddr := rfl

@[simp] theorem enter_sh (x : LoopState) : (enter x s).sh = s.sh := rfl

@[simp] theorem enter_lh (x : LoopState) : (enter x s).lh = s.lh := rfl

@[simp] theorem enter_per (x : LoopState) : (enter x s).per = s.per := rfl

@[simp] theorem enter_pin (x : LoopState) : (enter x s).pin = s.pin := rfl

@[simp] theorem enter_inv (x : LoopState) : (enter x s).inv = s.inv := rfl

@[simp] theorem enter_alt (x : LoopState) : (enter x s).alt = s.alt := rfl

@[simp] theorem enter_st (x : LoopState) : (enter x s).st = x := rfl

@[simp] theorem enter_ptr (x : LoopState) : (enter x s).ptr = s.ptr := rfl

@[simp] theorem enter_mask (x : LoopState) : (enter x s).mask = s.mask := rfl

@[simp] theorem enter_cur (x : LoopState) : (enter x s).cur = s.cur := rfl

@[simp] theorem enter_tstart (x : LoopState) : (enter x s).tstart = s.tstart := rfl

@[simp] theorem enter_tprev (x : LoopState) : (enter x s).tprev = s.tprev := rfl

@[simp] theorem enter_pout (x : LoopState) : (enter x s).pout = s.pout := rfl

@[simp] theorem enter_aout (x : LoopState) : (enter x s).aout = s.aout := rfl

@[simp] theorem enter_mem (x : LoopState) : (enter x s).mem = s.mem := rfl

@[simp] theorem enter_t (x : LoopState) : (enter x s).t = s.t := rfl

@[simp] theorem enter_c0 (x : LoopState) : (enter x s).c0 = s.c0 := rfl

@[simp] theorem enter_wtrace (x : LoopState) : (enter x s).wtrace = s.wtrace := rfl

@[simp] theorem enter_repoll (x : LoopState) : (enter x s).repoll = s.repoll := rfl

@[simp] theorem enter_request (x : LoopState) : (enter x s).request = s.request := rfl

@[simp] theorem enter_stalls (x : LoopState) : (enter x s).stalls = s.stalls := rfl

@[simp] theorem enter_draws (x : LoopState) : (enter x s).draws = s.draws := rfl

@[simp] theorem enter_portOut (x : LoopState) : (enter x s).portOut = s.portOut := rfl

@[simp] theorem enter_cc (x : LoopState) : (enter x s).cc = s.cc := rfl

@[simp] theorem enter_line (x : LoopState) : (enter x s).line = s.line := rfl

@[simp] theorem enter_currentBit (x : LoopState) : (enter x s).currentBit = s.currentBit := rfl

@[simp] theorem enter_currentDuration (x : LoopState) : (enter x s).currentDuration = s.currentDuration := rfl


/-! `pollAgain` -/

@[simp] theorem pollAgain_cfg (x : LoopState) : (pollAgain x s).cfg = s.cfg := rfl

@[simp] theorem pollAgain_endAddr (x : LoopState) : (pollAgain x s).endAddr = s.endAddr := rfl

@[simp] theorem pollAgain_sh (x : LoopState) : (pollAgain x s).sh = s.sh := rfl

@[simp] theorem pollAgain_lh (x : LoopState) : (pollAgain x s).lh = s.lh := rfl

@[simp] theorem pollAgain_per (x : LoopState) : (pollAgain x s).per = s.per := rfl

@[simp] theorem pollAgain_pin (x : LoopState) : (pollAgain x s).pin = s.pin := rfl

@[simp] theorem pollAgain_inv (x : LoopState) : (pollAgain x s).inv = s.inv := rfl

@[simp] theorem pollAgain_alt (x : LoopState) : (pollAgain x s).alt = s.alt := rfl

@[simp] theorem pollAgain_st (x : LoopState) : (pollAgain x s).st = x := rfl

@[simp] theorem pollAgain_ptr (x : LoopState) : (pollAgain x s).ptr = s.ptr := rfl

@[simp] theorem pollAgain_mask (x : LoopState) : (pollAgain x s).mask = s.mask := rfl

@[simp] theorem pollAgain_cur (x : LoopState) : (pollAgain x s).cur = s.cur := rfl

@[simp] theorem pollAgain_tstart (x : LoopState) : (pollAgain x s).tstart = s.tstart := rfl

@[simp] theorem pollAgain_tprev (x : LoopState) : (pollAgain x s).tprev = s.tprev := rfl

@[simp] theorem pollAgain_pout (x : LoopState) : (pollAgain x s).pout = s.pout := rfl

@[simp] theorem pollAgain_aout (x : LoopState) : (pollAgain x s).aout = s.aout := rfl

@[simp] theorem pollAgain_mem (x : LoopState) : (pollAgain x s).mem = s.mem := rfl

@[simp] theorem pollAgain_t (x : LoopState) : (pollAgain x s).t = s.t := rfl

@[simp] theorem pollAgain_c0 (x : LoopState) : (pollAgain x s).c0 = s.c0 := rfl

@[simp] theorem pollAgain_wtrace (x : LoopState) : (pollAgain x s).wtrace = s.wtrace := rfl

@[simp] theorem pollAgain_repoll (x : LoopState) : (pollAgain x s).repoll = true := rfl

@[simp] theorem pollAgain_request (x : LoopState) : (pollAgain x s).request = s.request := rfl

@[simp] theorem pollAgain_stalls (x : LoopState) : (pollAgain x s).stalls = s.stalls := rfl

@[simp] theorem pollAgain_draws (x : LoopState) : (pollAgain x s).draws = s.draws := rfl

@[simp] theorem pollAgain_portOut (x : LoopState) : (pollAgain x s).portOut = s.portOut := rfl

@[simp] theorem pollAgain_cc (x : LoopState) : (pollAgain x s).cc = s.cc := rfl

@[simp] theorem pollAgain_line (x : LoopState) : (pollAgain x s).line = s.line := rfl

@[simp] theorem pollAgain_currentBit (x : LoopState) : (pollAgain x s).currentBit = s.currentBit := rfl

@[simp] theorem pollAgain_currentDuration (x : LoopState) : (pollAgain x s).currentDuration = s.currentDuration := rfl


/-! `returnValue` -/

@[simp] theorem returnValue_cfg (v : Nat) : (returnValue v s).cfg = s.cfg := rfl

@[simp] theorem returnValue_endAddr (v : Nat) : (returnValue v s).endAddr = s.endAddr := rfl

@[simp] theorem returnValue_sh (v : Nat) : (returnValue v s).sh = s.sh := rfl

@[simp] theorem returnValue_lh (v : Nat) : (returnValue v s).lh = s.lh := rfl

@[simp] theorem returnValue_per (v : Nat) : (returnValue v s).per = s.per := rfl

@[simp] theorem returnValue_pin (v : Nat) : (returnValue v s).pin = s.pin := rfl

@[simp] theorem returnValue_inv (v : Nat) : (returnValue v s).inv = s.inv := rfl

@[simp] theorem returnValue_alt (v : Nat) : (returnValue v s).alt = s.alt := rfl

@[simp] theorem returnValue_st (v : Nat) : (returnValue v s).st = s.st := rfl

@[simp] theorem returnValue_ptr (v : Nat) : (returnValue v s).ptr = s.ptr := rfl

@[simp] theorem returnValue_mask (v : Nat) : (returnValue v s).mask = s.mask := rfl

@[simp] theorem returnValue_cur (v : Nat) : (returnValue v s).cur = s.cur := rfl

@[simp] theorem returnValue_tstart (v : Nat) : (returnValue v s).tstart = s.tstart := rfl

@[simp] theorem returnValue_tprev (v : Nat) : (returnValue v s).tprev = s.tprev := rfl

@[simp] theorem returnValue_pout (v : Nat) : (returnValue v s).pout = s.pout := rfl

@[simp] theorem returnValue_aout (v : Nat) : (returnValue v s).aout = s.aout := rfl

@[simp] theorem returnValue_mem (v : Nat) : (returnValue v s).mem = s.mem := rfl

@[simp] theorem returnValue_t (v : Nat) : (returnValue v s).t = s.t := rfl

@[simp] theorem returnValue_c0 (v : Nat) : (returnValue v s).c0 = s.c0 := rfl

@[simp] theorem returnValue_wtrace (v : Nat) : (returnValue v s).wtrace = s.wtrace := rfl

@[simp] theorem returnValue_repoll (v : Nat) : (returnValue v s).repoll = s.repoll := rfl

@[simp] theorem returnValue_request (v : Nat) : (returnValue v s).request = s.request := rfl

@[simp] theorem returnValue_stalls (v : Nat) : (returnValue v s).stalls = s.stalls := rfl

@[simp] theorem returnValue_draws (v : Nat) : (returnValue v s).draws = s.draws := rfl

@[simp] theorem returnValue_portOut (v : Nat) : (returnValue v s).portOut = v := rfl

@[simp] theorem returnValue_cc (v : Nat) : (returnValue v s).cc = s.cc := rfl

@[simp] theorem returnValue_line (v : Nat) : (returnValue v s).line = s.line := rfl

@[simp] theorem returnValue_currentBit (v : Nat) : (returnValue v s).currentBit = s.currentBit := rfl

@[simp] theorem returnValue_currentDuration (v : Nat) : (returnValue v s).currentDuration = s.currentDuration := rfl


/-! `prime` -/

@[simp] theorem prime_cfg : (prime s).cfg = s.cfg := rfl

@[simp] theorem prime_endAddr : (prime s).endAddr = s.endAddr := rfl

@[simp] theorem prime_sh : (prime s).sh = s.sh := rfl

@[simp] theorem prime_lh : (prime s).lh = s.lh := rfl

@[simp] theorem prime_per : (prime s).per = s.per := rfl

@[simp] theorem prime_pin : (prime s).pin = s.pin := rfl

@[simp] theorem prime_inv : (prime s).inv = s.inv := rfl

@[simp] theorem prime_alt : (prime s).alt = s.alt := rfl

@[simp] theorem prime_st : (prime s).st = s.st := rfl

@[simp] theorem prime_ptr : (prime s).ptr = s.ptr := rfl

@[simp] theorem prime_mask : (prime s).mask = s.mask := rfl

@[simp] theorem prime_cur : (prime s).cur = s.cur := rfl

@[simp] theorem prime_tstart : (prime s).tstart = s.tstart := rfl

@[simp] theorem prime_tprev : (prime s).tprev = subMod s.cfg.ccw s.cc s.per := rfl

@[simp] theorem prime_pout : (prime s).pout = s.pout := rfl

@[simp] theorem prime_aout : (prime s).aout = s.aout := rfl

@[simp] theorem prime_mem : (prime s).mem = s.mem := rfl

@[simp] theorem prime_t : (prime s).t = s.t := rfl

@[simp] theorem prime_c0 : (prime s).c0 = s.c0 := rfl

@[simp] theorem prime_wtrace : (prime s).wtrace = s.wtrace := rfl

@[simp] theorem prime_repoll : (prime s).repoll = s.repoll := rfl

@[simp] theorem prime_request : (prime s).request = s.request := rfl

@[simp] theorem prime_stalls : (prime s).stalls = s.stalls := rfl

@[simp] theorem prime_draws : (prime s).draws = s.draws := rfl

@[simp] theorem prime_portOut : (prime s).portOut = s.portOut := rfl

@[simp] theorem prime_cc : (prime s).cc = s.cc := rfl

@[simp] theorem prime_line : (prime s).line = s.line := rfl

@[simp] theorem prime_currentBit : (prime s).currentBit = s.currentBit := rfl

@[simp] theorem prime_currentDuration : (prime s).currentDuration = s.currentDuration := rfl


/-! `loadByte` -/

@[simp] theorem loadByte_cfg (b : Byte) : (loadByte b s).cfg = s.cfg := rfl

@[simp] theorem loadByte_endAddr (b : Byte) : (loadByte b s).endAddr = s.endAddr := rfl

@[simp] theorem loadByte_sh (b : Byte) : (loadByte b s).sh = s.sh := rfl

@[simp] theorem loadByte_lh (b : Byte) : (loadByte b s).lh = s.lh := rfl

@[simp] theorem loadByte_per (b : Byte) : (loadByte b s).per = s.per := rfl

@[simp] theorem loadByte_pin (b : Byte) : (loadByte b s).pin = s.pin := rfl

@[simp] theorem loadByte_inv (b : Byte) : (loadByte b s).inv = s.inv := rfl

@[simp] theorem loadByte_alt (b : Byte) : (loadByte b s).alt = s.alt := rfl

@[simp] theorem loadByte_st (b : Byte) : (loadByte b s).st = .awaitSlot := rfl

@[simp] theorem loadByte_ptr (b : Byte) : (loadByte b s).ptr = s.ptr := rfl

@[simp] theorem loadByte_mask (b : Byte) : (loadByte b s).mask = s.mask := rfl

@[simp] theorem loadByte_cur (b : Byte) : (loadByte b s).cur = b := rfl

@[simp] theorem loadByte_tstart (b : Byte) : (loadByte b s).tstart = s.tstart := rfl

@[simp] theorem loadByte_tprev (b : Byte) : (loadByte b s).tprev = s.tprev := rfl

@[simp] theorem loadByte_pout (b : Byte) : (loadByte b s).pout = s.pout := rfl

@[simp] theorem loadByte_aout (b : Byte) : (loadByte b s).aout = s.aout := rfl

@[simp] theorem loadByte_mem (b : Byte) : (loadByte b s).mem = s.mem := rfl

@[simp] theorem loadByte_t (b : Byte) : (loadByte b s).t = s.t := rfl

@[simp] theorem loadByte_c0 (b : Byte) : (loadByte b s).c0 = s.c0 := rfl

@[simp] theorem loadByte_wtrace (b : Byte) : (loadByte b s).wtrace = s.wtrace := rfl

@[simp] theorem loadByte_repoll (b : Byte) : (loadByte b s).repoll = s.repoll := rfl

@[simp] theorem loadByte_request (b : Byte) : (loadByte b s).request = s.request := rfl

@[simp] theorem loadByte_stalls (b : Byte) : (loadByte b s).stalls = s.stalls := rfl

@[simp] theorem loadByte_draws (b : Byte) : (loadByte b s).draws = s.draws := rfl

@[simp] theorem loadByte_portOut (b : Byte) : (loadByte b s).portOut = s.portOut := rfl

@[simp] theorem loadByte_cc (b : Byte) : (loadByte b s).cc = s.cc := rfl

@[simp] theorem loadByte_line (b : Byte) : (loadByte b s).line = s.line := rfl


/-! `startSlot` -/

@[simp] theorem startSlot_cfg : (startSlot s).cfg = s.cfg := rfl

@[simp] theorem startSlot_endAddr : (startSlot s).endAddr = s.endAddr := rfl

@[simp] theorem startSlot_sh : (startSlot s).sh = s.sh := rfl

@[simp] theorem startSlot_lh : (startSlot s).lh = s.lh := rfl

@[simp] theorem startSlot_per : (startSlot s).per = s.per := rfl

@[simp] theorem startSlot_pin : (startSlot s).pin = s.pin := rfl

@[simp] theorem startSlot_inv : (startSlot s).inv = s.inv := rfl

@[simp] theorem startSlot_alt : (startSlot s).alt = s.alt := rfl

@[simp] theorem startSlot_st : (startSlot s).st = .assert := rfl

@[simp] theorem startSlot_ptr : (startSlot s).ptr = s.ptr := rfl

@[simp] theorem startSlot_mask : (startSlot s).mask = s.mask := rfl

@[simp] theorem startSlot_cur : (startSlot s).cur = s.cur := rfl

@[simp] theorem startSlot_tstart : (startSlot s).tstart = s.cc := rfl

@[simp] theorem startSlot_tprev : (startSlot s).tprev = s.tprev := rfl

@[simp] theorem startSlot_pout : (startSlot s).pout = s.pout := rfl

@[simp] theorem startSlot_aout : (startSlot s).aout = s.aout := rfl

@[simp] theorem startSlot_mem : (startSlot s).mem = s.mem := rfl

@[simp] theorem startSlot_t : (startSlot s).t = s.t := rfl

@[simp] theorem startSlot_c0 : (startSlot s).c0 = s.c0 := rfl

@[simp] theorem startSlot_wtrace : (startSlot s).wtrace = s.wtrace := rfl

@[simp] theorem startSlot_repoll : (startSlot s).repoll = s.repoll := rfl

@[simp] theorem startSlot_request : (startSlot s).request = s.request := rfl

@[simp] theorem startSlot_stalls : (startSlot s).stalls = s.stalls := rfl

@[simp] theorem startSlot_draws : (startSlot s).draws = s.draws := rfl

@[simp] theorem startSlot_portOut : (startSlot s).portOut = s.portOut := rfl

@[simp] theorem startSlot_cc : (startSlot s).cc = s.cc := rfl

@[simp] theorem startSlot_line : (startSlot s).line = s.line := rfl

@[simp] theorem startSlot_currentBit : (startSlot s).currentBit = s.currentBit := rfl

@[simp] theorem startSlot_currentDuration : (startSlot s).currentDuration = s.currentDuration := rfl


/-! `shiftMask` -/

@[simp] theorem shiftMask_cfg : (shiftMask s).cfg = s.cfg := rfl

@[simp] theorem shiftMask_endAddr : (shiftMask s).endAddr = s.endAddr := rfl

@[simp] theorem shiftMask_sh : (shiftMask s).sh = s.sh := rfl

@[simp] theorem shiftMask_lh : (shiftMask s).lh = s.lh := rfl

@[simp] theorem shiftMask_per : (shiftMask s).per = s.per := rfl

@[simp] theorem shiftMask_pin : (shiftMask s).pin = s.pin := rfl

@[simp] theorem shiftMask_inv : (shiftMask s).inv = s.inv := rfl

@[simp] theorem shiftMask_alt : (shiftMask s).alt = s.alt := rfl

@[simp] theorem shiftMask_st : (shiftMask s).st = s.st := rfl

@[simp] theorem shiftMask_ptr : (shiftMask s).ptr = s.ptr := rfl

@[simp] theorem shiftMask_mask : (shiftMask s).mask = s.mask >>> 1 := rfl

@[simp] theorem shiftMask_cur : (shiftMask s).cur = s.cur := rfl

@[simp] theorem shiftMask_tstart : (shiftMask s).tstart = s.tstart := rfl

@[simp] theorem shiftMask_tprev : (shiftMask s).tprev = s.tstart := rfl

@[simp] theorem shiftMask_pout : (shiftMask s).pout = s.pout := rfl

@[simp] theorem shiftMask_aout : (shiftMask s).aout = s.aout := rfl

@[simp] theorem shiftMask_mem : (shiftMask s).mem = s.mem := rfl

@[simp] theorem shiftMask_t : (shiftMask s).t = s.t := rfl

@[simp] theorem shiftMask_c0 : (shiftMask s).c0 = s.c0 := rfl

@[simp] theorem shiftMask_wtrace : (shiftMask s).wtrace = s.wtrace := rfl

@[simp] theorem shiftMask_repoll : (shiftMask s).repoll = s.repoll := rfl

@[simp] theorem shiftMask_request : (shiftMask s).request = s.request := rfl

@[simp] theorem shiftMask_stalls : (shiftMask s).stalls = s.stalls := rfl

@[simp] theorem shiftMask_draws : (shiftMask s).draws = s.draws := rfl

@[simp] theorem shiftMask_portOut : (shiftMask s).portOut = s.portOut := rfl

@[simp] theorem shiftMask_cc : (shiftMask s).cc = s.cc := rfl

@[simp] theorem shiftMask_line : (shiftMask s).line = s.line := rfl


/-! `nextAddress` -/

@[simp] theorem nextAddress_cfg : (nextAddress s).cfg = s.cfg := rfl

@[simp] theorem nextAddress_endAddr : (nextAddress s).endAddr = s.endAddr := rfl

@[simp] theorem nextAddress_sh : (nextAddress s).sh = s.sh := rfl

@[simp] theorem nextAddress_lh : (nextAddress s).lh = s.lh := rfl

@[simp] theorem nextAddress_per : (nextAddress s).per = s.per := rfl

@[simp] theorem nextAddress_pin : (nextAddress s).pin = s.pin := rfl

@[simp] theorem nextAddress_inv : (nextAddress s).inv = s.inv := rfl

@[simp] theorem nextAddress_alt : (nextAddress s).alt = s.alt := rfl

@[simp] theorem nextAddress_st : (nextAddress s).st = s.st := rfl

@[simp] theorem nextAddress_ptr : (nextAddress s).ptr = incMod s.cfg.aw s.ptr := rfl

@[simp] theorem nextAddress_mask : (nextAddress s).mask = 0x80 := rfl

@[simp] theorem nextAddress_cur : (nextAddress s).cur = s.cur := rfl

@[simp] theorem nextAddress_tstart : (nextAddress s).tstart = s.tstart := rfl

@[simp] theorem nextAddress_tprev : (nextAddress s).tprev = s.tprev := rfl

@[simp] theorem nextAddress_pout : (nextAddress s).pout = s.pout := rfl

@[simp] theorem nextAddress_aout : (nextAddress s).aout = s.aout := rfl

@[simp] theorem nextAddress_mem : (nextAddress s).mem = s.mem := rfl

@[simp] theorem nextAddress_t : (nextAddress s).t = s.t := rfl

@[simp] theorem nextAddress_c0 : (nextAddress s).c0 = s.c0 := rfl

@[simp] theorem nextAddress_wtrace : (nextAddress s).wtrace = s.wtrace := rfl

@[simp] theorem nextAddress_repoll : (nextAddress s).repoll = s.repoll := rfl

@[simp] theorem nextAddress_request : (nextAddress s).request = s.request := rfl

@[simp] theorem nextAddress_stalls : (nextAddress s).stalls = s.stalls := rfl

@[simp] theorem nextAddress_draws : (nextAddress s).draws = s.draws := rfl

@[simp] theorem nextAddress_portOut : (nextAddress s).portOut = s.portOut := rfl

@[simp] theorem nextAddress_cc : (nextAddress s).cc = s.cc := rfl

@[simp] theorem nextAddress_line : (nextAddress s).line = s.line := rfl


/-! `taken` -/

@[simp] theorem taken_cfg : (taken s).cfg = s.cfg := rfl

@[simp] theorem taken_endAddr : (taken s).endAddr = s.endAddr := rfl

@[simp] theorem taken_sh : (taken s).sh = s.sh := rfl

@[simp] theorem taken_lh : (taken s).lh = s.lh := rfl

@[simp] theorem taken_per : (taken s).per = s.per := rfl

@[simp] theorem taken_pin : (taken s).pin = s.pin := rfl

@[simp] theorem taken_inv : (taken s).inv = s.inv := rfl

@[simp] theorem taken_alt : (taken s).alt = s.alt := rfl

@[simp] theorem taken_st : (taken s).st = s.st := rfl

@[simp] theorem taken_ptr : (taken s).ptr = s.ptr := rfl

@[simp] theorem taken_mask : (taken s).mask = s.mask := rfl

@[simp] theorem taken_cur : (taken s).cur = s.cur := rfl

@[simp] theorem taken_tstart : (taken s).tstart = s.tstart := rfl

@[simp] theorem taken_tprev : (taken s).tprev = s.tprev := rfl

@[simp] theorem taken_pout : (taken s).pout = s.pout := rfl

@[simp] theorem taken_aout : (taken s).aout = s.aout := rfl

@[simp] theorem taken_mem : (taken s).mem = s.mem := rfl

@[simp] theorem taken_t : (taken s).t = s.t := rfl

@[simp] theorem taken_c0 : (taken s).c0 = s.c0 := rfl

@[simp] theorem taken_wtrace : (taken s).wtrace = s.wtrace := rfl

@[simp] theorem taken_repoll : (taken s).repoll = s.repoll := rfl

@[simp] theorem taken_request : (taken s).request = none := rfl

@[simp] theorem taken_stalls : (taken s).stalls = s.stalls := rfl

@[simp] theorem taken_draws : (taken s).draws = s.draws := rfl

@[simp] theorem taken_portOut : (taken s).portOut = s.portOut := rfl

@[simp] theorem taken_cc : (taken s).cc = s.cc := rfl

@[simp] theorem taken_line : (taken s).line = s.line := rfl

@[simp] theorem taken_currentBit : (taken s).currentBit = s.currentBit := rfl

@[simp] theorem taken_currentDuration : (taken s).currentDuration = s.currentDuration := rfl


/-! `newCall` -/

@[simp] theorem newCall_cfg (k : Command) : (newCall k s).cfg = s.cfg := rfl

@[simp] theorem newCall_endAddr (k : Command) : (newCall k s).endAddr = trunc s.cfg.aw k.a1 := rfl

@[simp] theorem newCall_sh (k : Command) : (newCall k s).sh = trunc s.cfg.ccw k.a3 := rfl

@[simp] theorem newCall_lh (k : Command) : (newCall k s).lh = trunc s.cfg.ccw k.a4 := rfl

@[simp] theorem newCall_per (k : Command) : (newCall k s).per = trunc s.cfg.ccw k.a5 := rfl

@[simp] theorem newCall_pin (k : Command) : (newCall k s).pin = if k.alt then unspecified s.draws .pin s.cfg.pw else trunc s.cfg.pw k.a2 := rfl

@[simp] theorem newCall_inv (k : Command) : (newCall k s).inv = k.inv := rfl

@[simp] theorem newCall_alt (k : Command) : (newCall k s).alt = k.alt := rfl

@[simp] theorem newCall_st (k : Command) : (newCall k s).st = s.st := rfl

@[simp] theorem newCall_ptr (k : Command) : (newCall k s).ptr = trunc s.cfg.aw k.a0 := rfl

@[simp] theorem newCall_mask (k : Command) : (newCall k s).mask = 0x80 := rfl

@[simp] theorem newCall_cur (k : Command) : (newCall k s).cur = BitVec.ofNat 8 (Config.freeRegister s.draws .cur) := rfl

@[simp] theorem newCall_tstart (k : Command) : (newCall k s).tstart = unspecified s.draws .tstart s.cfg.ccw := rfl

@[simp] theorem newCall_tprev (k : Command) : (newCall k s).tprev = unspecified s.draws .tprev s.cfg.ccw := rfl

@[simp] theorem newCall_pout (k : Command) : (newCall k s).pout = s.pout := rfl

@[simp] theorem newCall_aout (k : Command) : (newCall k s).aout = s.aout := rfl

@[simp] theorem newCall_mem (k : Command) : (newCall k s).mem = s.mem := rfl

@[simp] theorem newCall_t (k : Command) : (newCall k s).t = s.t := rfl

@[simp] theorem newCall_c0 (k : Command) : (newCall k s).c0 = s.c0 := rfl

@[simp] theorem newCall_wtrace (k : Command) : (newCall k s).wtrace = [] := rfl

@[simp] theorem newCall_repoll (k : Command) : (newCall k s).repoll = false := rfl

@[simp] theorem newCall_request (k : Command) : (newCall k s).request = s.request := rfl

@[simp] theorem newCall_stalls (k : Command) : (newCall k s).stalls = s.stalls := rfl

@[simp] theorem newCall_draws (k : Command) : (newCall k s).draws = s.draws + 1 := rfl

@[simp] theorem newCall_portOut (k : Command) : (newCall k s).portOut = s.portOut := rfl

@[simp] theorem newCall_cc (k : Command) : (newCall k s).cc = s.cc := rfl


/-! `driverAction` -/

@[simp] theorem driverAction_cfg (a i c : Bool) : (driverAction a i c s).cfg = s.cfg := by
  cases a <;> cases i <;> cases c <;> rfl

@[simp] theorem driverAction_endAddr (a i c : Bool) : (driverAction a i c s).endAddr = s.endAddr := by
  cases a <;> cases i <;> cases c <;> rfl

@[simp] theorem driverAction_sh (a i c : Bool) : (driverAction a i c s).sh = s.sh := by
  cases a <;> cases i <;> cases c <;> rfl

@[simp] theorem driverAction_lh (a i c : Bool) : (driverAction a i c s).lh = s.lh := by
  cases a <;> cases i <;> cases c <;> rfl

@[simp] theorem driverAction_per (a i c : Bool) : (driverAction a i c s).per = s.per := by
  cases a <;> cases i <;> cases c <;> rfl

@[simp] theorem driverAction_pin (a i c : Bool) : (driverAction a i c s).pin = s.pin := by
  cases a <;> cases i <;> cases c <;> rfl

@[simp] theorem driverAction_inv (a i c : Bool) : (driverAction a i c s).inv = s.inv := by
  cases a <;> cases i <;> cases c <;> rfl

@[simp] theorem driverAction_alt (a i c : Bool) : (driverAction a i c s).alt = s.alt := by
  cases a <;> cases i <;> cases c <;> rfl

@[simp] theorem driverAction_st (a i c : Bool) : (driverAction a i c s).st = s.st := by
  cases a <;> cases i <;> cases c <;> rfl

@[simp] theorem driverAction_ptr (a i c : Bool) : (driverAction a i c s).ptr = s.ptr := by
  cases a <;> cases i <;> cases c <;> rfl

@[simp] theorem driverAction_mask (a i c : Bool) : (driverAction a i c s).mask = s.mask := by
  cases a <;> cases i <;> cases c <;> rfl

@[simp] theorem driverAction_cur (a i c : Bool) : (driverAction a i c s).cur = s.cur := by
  cases a <;> cases i <;> cases c <;> rfl

@[simp] theorem driverAction_tstart (a i c : Bool) : (driverAction a i c s).tstart = s.tstart := by
  cases a <;> cases i <;> cases c <;> rfl

@[simp] theorem driverAction_tprev (a i c : Bool) : (driverAction a i c s).tprev = s.tprev := by
  cases a <;> cases i <;> cases c <;> rfl

@[simp] theorem driverAction_mem (a i c : Bool) : (driverAction a i c s).mem = s.mem := by
  cases a <;> cases i <;> cases c <;> rfl

@[simp] theorem driverAction_t (a i c : Bool) : (driverAction a i c s).t = s.t := by
  cases a <;> cases i <;> cases c <;> rfl

@[simp] theorem driverAction_c0 (a i c : Bool) : (driverAction a i c s).c0 = s.c0 := by
  cases a <;> cases i <;> cases c <;> rfl

@[simp] theorem driverAction_repoll (a i c : Bool) : (driverAction a i c s).repoll = s.repoll := by
  cases a <;> cases i <;> cases c <;> rfl

@[simp] theorem driverAction_request (a i c : Bool) : (driverAction a i c s).request = s.request := by
  cases a <;> cases i <;> cases c <;> rfl

@[simp] theorem driverAction_stalls (a i c : Bool) : (driverAction a i c s).stalls = s.stalls := by
  cases a <;> cases i <;> cases c <;> rfl

@[simp] theorem driverAction_draws (a i c : Bool) : (driverAction a i c s).draws = s.draws := by
  cases a <;> cases i <;> cases c <;> rfl

@[simp] theorem driverAction_portOut (a i c : Bool) : (driverAction a i c s).portOut = s.portOut := by
  cases a <;> cases i <;> cases c <;> rfl

@[simp] theorem driverAction_cc (a i c : Bool) : (driverAction a i c s).cc = s.cc := by
  cases a <;> cases i <;> cases c <;> rfl

@[simp] theorem driverAction_currentBit (a i c : Bool) : (driverAction a i c s).currentBit = s.currentBit := by
  cases a <;> cases i <;> cases c <;> rfl

@[simp] theorem driverAction_currentDuration (a i c : Bool) : (driverAction a i c s).currentDuration = s.currentDuration := by
  cases a <;> cases i <;> cases c <;> rfl


/-! `drive` -/

@[simp] theorem drive_cfg (c : Bool) : (drive c s).cfg = s.cfg := driverAction_cfg ..

@[simp] theorem drive_endAddr (c : Bool) : (drive c s).endAddr = s.endAddr := driverAction_endAddr ..

@[simp] theorem drive_sh (c : Bool) : (drive c s).sh = s.sh := driverAction_sh ..

@[simp] theorem drive_lh (c : Bool) : (drive c s).lh = s.lh := driverAction_lh ..

@[simp] theorem drive_per (c : Bool) : (drive c s).per = s.per := driverAction_per ..

@[simp] theorem drive_pin (c : Bool) : (drive c s).pin = s.pin := driverAction_pin ..

@[simp] theorem drive_inv (c : Bool) : (drive c s).inv = s.inv := driverAction_inv ..

@[simp] theorem drive_alt (c : Bool) : (drive c s).alt = s.alt := driverAction_alt ..

@[simp] theorem drive_st (c : Bool) : (drive c s).st = s.st := driverAction_st ..

@[simp] theorem drive_ptr (c : Bool) : (drive c s).ptr = s.ptr := driverAction_ptr ..

@[simp] theorem drive_mask (c : Bool) : (drive c s).mask = s.mask := driverAction_mask ..

@[simp] theorem drive_cur (c : Bool) : (drive c s).cur = s.cur := driverAction_cur ..

@[simp] theorem drive_tstart (c : Bool) : (drive c s).tstart = s.tstart := driverAction_tstart ..

@[simp] theorem drive_tprev (c : Bool) : (drive c s).tprev = s.tprev := driverAction_tprev ..

@[simp] theorem drive_mem (c : Bool) : (drive c s).mem = s.mem := driverAction_mem ..

@[simp] theorem drive_t (c : Bool) : (drive c s).t = s.t := driverAction_t ..

@[simp] theorem drive_c0 (c : Bool) : (drive c s).c0 = s.c0 := driverAction_c0 ..

@[simp] theorem drive_repoll (c : Bool) : (drive c s).repoll = s.repoll := driverAction_repoll ..

@[simp] theorem drive_request (c : Bool) : (drive c s).request = s.request := driverAction_request ..

@[simp] theorem drive_stalls (c : Bool) : (drive c s).stalls = s.stalls := driverAction_stalls ..

@[simp] theorem drive_draws (c : Bool) : (drive c s).draws = s.draws := driverAction_draws ..

@[simp] theorem drive_portOut (c : Bool) : (drive c s).portOut = s.portOut := driverAction_portOut ..

@[simp] theorem drive_cc (c : Bool) : (drive c s).cc = s.cc := driverAction_cc ..

@[simp] theorem drive_currentBit (c : Bool) : (drive c s).currentBit = s.currentBit := driverAction_currentBit ..

@[simp] theorem drive_currentDuration (c : Bool) : (drive c s).currentDuration = s.currentDuration := driverAction_currentDuration ..


/-! `sendSymbol` -/

@[simp] theorem sendSymbol_cfg (b : Bool) : (sendSymbol b s).cfg = s.cfg := by
  simp [sendSymbol]

@[simp] theorem sendSymbol_endAddr (b : Bool) : (sendSymbol b s).endAddr = s.endAddr := by
  simp [sendSymbol]

@[simp] theorem sendSymbol_sh (b : Bool) : (sendSymbol b s).sh = s.sh := by
  simp [sendSymbol]

@[simp] theorem sendSymbol_lh (b : Bool) : (sendSymbol b s).lh = s.lh := by
  simp [sendSymbol]

@[simp] theorem sendSymbol_per (b : Bool) : (sendSymbol b s).per = s.per := by
  simp [sendSymbol]

@[simp] theorem sendSymbol_pin (b : Bool) : (sendSymbol b s).pin = s.pin := by
  simp [sendSymbol]

@[simp] theorem sendSymbol_inv (b : Bool) : (sendSymbol b s).inv = s.inv := by
  simp [sendSymbol]

@[simp] theorem sendSymbol_alt (b : Bool) : (sendSymbol b s).alt = s.alt := by
  simp [sendSymbol]

@[simp] theorem sendSymbol_st (b : Bool) : (sendSymbol b s).st = s.st := by
  simp [sendSymbol]

@[simp] theorem sendSymbol_ptr (b : Bool) : (sendSymbol b s).ptr = s.ptr := by
  simp [sendSymbol]

@[simp] theorem sendSymbol_mask (b : Bool) : (sendSymbol b s).mask = s.mask := by
  simp [sendSymbol]

@[simp] theorem sendSymbol_cur (b : Bool) : (sendSymbol b s).cur = s.cur := by
  simp [sendSymbol]

@[simp] theorem sendSymbol_tstart (b : Bool) : (sendSymbol b s).tstart = s.tstart := by
  simp [sendSymbol]

@[simp] theorem sendSymbol_tprev (b : Bool) : (sendSymbol b s).tprev = s.tprev := by
  simp [sendSymbol]

@[simp] theorem sendSymbol_mem (b : Bool) : (sendSymbol b s).mem = s.mem := by
  simp [sendSymbol]

@[simp] theorem sendSymbol_c0 (b : Bool) : (sendSymbol b s).c0 = s.c0 := by
  simp [sendSymbol]

@[simp] theorem sendSymbol_request (b : Bool) : (sendSymbol b s).request = s.request := by
  simp [sendSymbol]

@[simp] theorem sendSymbol_portOut (b : Bool) : (sendSymbol b s).portOut = s.portOut := by
  simp [sendSymbol]

@[simp] theorem sendSymbol_currentBit (b : Bool) : (sendSymbol b s).currentBit = s.currentBit := by
  simp [sendSymbol]

@[simp] theorem sendSymbol_currentDuration (b : Bool) : (sendSymbol b s).currentDuration = s.currentDuration := by
  simp [sendSymbol]


end Sys2Proof.Machine
end

