-- ==== Sys2Proof/Laws/Words.lean ====
section
/-! SUPPORT. The arithmetic of Machine/Operands.lean and the width function of Config.lean, said once. -/

namespace Sys2Proof

/-- `ceilLog2 n` bits are enough to number `n` lines (D5). -/
theorem le_two_pow_ceilLog2 (n : Nat) : n ≤ 2 ^ ceilLog2 n := by
  unfold ceilLog2
  cases h : (List.range (n + 1)).find? fun k => decide (n ≤ 2 ^ k) with
  | some k => simpa using List.find?_some h
  | none =>
    have := List.find?_eq_none.mp h n (by simp)
    simp [Nat.lt_two_pow_self.le] at this

/-- Fewer than `ceilLog2 n` bits are not enough. -/
theorem two_pow_lt_of_lt_ceilLog2 {n k : Nat} (h : k < ceilLog2 n) : 2 ^ k < n := by
  unfold ceilLog2 at h
  cases hf : (List.range (n + 1)).find? fun k => decide (n ≤ 2 ^ k) with
  | none => simp [hf] at h
  | some m =>
    simp only [hf, Option.getD_some] at h
    obtain ⟨-, as, bs, hl, hall⟩ := List.find?_eq_some_iff_append.mp hf
    have hm : m ≤ n := by
      have : m ∈ List.range (n + 1) := by rw [hl]; simp
      simpa [Nat.lt_succ_iff] using this
    have hlen : as.length = m := by
      have h1 : (List.range (n + 1))[as.length]? = some m := by rw [hl]; simp
      rw [List.getElem?_eq_some_iff] at h1
      obtain ⟨hlt, he⟩ := h1
      simpa using he
    have hk : k ∈ as := by
      have h1 : (List.range (n + 1))[k]? = some k := by
        rw [List.getElem?_range (by omega)]
      rw [hl, List.getElem?_append_left (by omega)] at h1
      exact List.mem_of_getElem? h1
    simpa using hall k hk

namespace Machine

theorem trunc_eq (w x : Nat) : trunc w x = x % 2 ^ w := BitVec.toNat_ofNat ..

@[simp] theorem trunc_lt (w x : Nat) : trunc w x < 2 ^ w := (BitVec.ofNat w x).isLt

theorem trunc_of_lt {w x : Nat} (h : x < 2 ^ w) : trunc w x = x := by
  rw [trunc_eq, Nat.mod_eq_of_lt h]

theorem trunc_le (w x : Nat) : trunc w x ≤ x := by rw [trunc_eq]; exact Nat.mod_le ..

theorem subMod_eq (w a b : Nat) : subMod w a b = (2 ^ w - b % 2 ^ w + a % 2 ^ w) % 2 ^ w := by
  simp [subMod, BitVec.toNat_sub]

@[simp] theorem subMod_lt (w a b : Nat) : subMod w a b < 2 ^ w := BitVec.isLt _

/-- The form the spec gives: `(a - b) mod 2^W`, for values of the width. -/
theorem subMod_of_lt {w a b : Nat} (hb : b < 2 ^ w) : subMod w a b = (a + 2 ^ w - b) % 2 ^ w := by
  rw [subMod_eq, Nat.mod_eq_of_lt hb]
  have : a + 2 ^ w - b = 2 ^ w - b + a := by omega
  rw [this, Nat.add_mod, Nat.mod_mod, ← Nat.add_mod]

theorem incMod_eq (w a : Nat) : incMod w a = (a + 1) % 2 ^ w := by
  simp [incMod, BitVec.toNat_add]

@[simp] theorem incMod_lt (w a : Nat) : incMod w a < 2 ^ w := BitVec.isLt _

/-- The pointer increment does not carry out while the pointer is below an address (R53). -/
theorem incMod_of_lt {w a b : Nat} (h : a < b) (hb : b < 2 ^ w) : incMod w a = a + 1 := by
  rw [incMod_eq, Nat.mod_eq_of_lt (by omega)]

@[simp] theorem setBits_lt (w r m : Nat) : setBits w r m < 2 ^ w := BitVec.isLt _

@[simp] theorem clearBits_lt (w r m : Nat) : clearBits w r m < 2 ^ w := BitVec.isLt _

@[simp] theorem replaceBit_lt (w r i : Nat) (l : Bool) : replaceBit w r i l < 2 ^ w := by
  unfold replaceBit; split <;> simp

/-- `PINMASK` has exactly its own bit set, if there is such a line (R13). -/
theorem oneHot_testBit (w i j : Nat) : (oneHot w i).testBit j = (decide (i = j) && decide (j < w)) := by
  simp only [oneHot, BitVec.toNat_shiftLeft, BitVec.toNat_ofNat, Nat.testBit_mod_two_pow, Nat.testBit_shiftLeft]
  by_cases hj : j < w
  · by_cases hi : i = j
    · subst hi; simp [hj]; omega
    · by_cases hle : i ≤ j
      · obtain ⟨n, hn⟩ : ∃ n, j - i = n + 1 := ⟨j - i - 1, by omega⟩
        simp [hi, hj, hle, hn, Nat.testBit_succ]
      · simp [hi, hle]
  · simp [hj]

theorem setBits_testBit (w r m j : Nat) :
    (setBits w r m).testBit j = (decide (j < w) && (r.testBit j || m.testBit j)) := by
  simp only [setBits, BitVec.toNat_or, BitVec.toNat_ofNat, Nat.testBit_or, Nat.testBit_mod_two_pow]
  by_cases hj : j < w <;> simp [hj]

theorem clearBits_testBit (w r m j : Nat) :
    (clearBits w r m).testBit j = (decide (j < w) && (r.testBit j && !m.testBit j)) := by
  have h : (clearBits w r m).testBit j = (BitVec.ofNat w r &&& ~~~ BitVec.ofNat w m).getLsbD j := rfl
  rw [h]
  simp only [BitVec.getLsbD_and, BitVec.getLsbD_not, BitVec.getLsbD_ofNat]
  by_cases hj : j < w <;> simp [hj]

/-- The law of the alternate-bank access and of both primary-bank ports: one bit takes the level, if the register
has it, and every other bit of the register stays (R101 to R103). -/
theorem replaceBit_testBit (w r i j : Nat) (l : Bool) :
    (replaceBit w r i l).testBit j = (decide (j < w) && if j = i then l else r.testBit j) := by
  unfold replaceBit
  by_cases hij : j = i
  · subst hij
    by_cases hj : j < w <;> cases l <;> simp [setBits_testBit, clearBits_testBit, oneHot_testBit, hj]
  · cases l <;> simp [setBits_testBit, clearBits_testBit, oneHot_testBit, hij, Ne.symm hij]

theorem testBit_eq_false_of_lt {w r j : Nat} (h : r < 2 ^ w) (hj : w ≤ j) : r.testBit j = false :=
  Nat.testBit_lt_two_pow (lt_of_lt_of_le h (Nat.pow_le_pow_right (by omega) hj))

/-- On a register of its width, replacing a bit changes that bit only. -/
theorem replaceBit_testBit_of_lt {w r i : Nat} (h : r < 2 ^ w) (j : Nat) (l : Bool) :
    (replaceBit w r i l).testBit j = if j = i ∧ i < w then l else r.testBit j := by
  rw [replaceBit_testBit]
  by_cases hj : j < w
  · by_cases hij : j = i
    · subst hij; simp [hj]
    · simp [hj, hij]
  · have := testBit_eq_false_of_lt h (Nat.le_of_not_lt hj)
    have : ¬(j = i ∧ i < w) := by omega
    simp [*]

end Machine

end Sys2Proof
end

