-- ==== Sys2Proof/Laws/Ops.lean ====
section
/-! SUPPORT. One lemma for each shared operation that says everything it can do. -/

namespace Sys2Proof.Machine

variable {s s' : State}

/-! ### The counter sample -/

/-- Every gap is at least its lower bound (R123), given that a stall bound is at least 1 (R124). -/
theorem gmin_le_gap (h : s.cfg.legal = true) : s.gmin ≤ s.gap := by
  unfold State.gap State.gmin
  have hJ : ∀ J, s.cfg.profile = .bounded J → 1 ≤ J := by
    intro J e
    simp [Config.legal, e] at h
    exact h.2
  cases e : s.cfg.profile with
  | general => simp
  | ideal => simp
  | bounded J =>
    have := hJ J e
    simp only [Nat.le_min]
    split <;> omega

theorem gap_le_of_bounded {J : Nat} (h : s.cfg.profile = .bounded J) : s.gap ≤ J := by
  simp [State.gap, h]

theorem gap_of_ideal (h : s.cfg.profile = .ideal) : s.gap = s.gmin := by
  simp [State.gap, h]

@[simp] theorem gmin_of_repoll (h : s.repoll = true) : s.gmin = 1 := by simp [State.gmin, h]

@[simp] theorem gmin_of_first (h : s.repoll = false) : s.gmin = 0 := by simp [State.gmin, h]

/-- The value `Now()` returns (R120). -/
theorem cc_sample : (sample s).cc = (s.c0 + (s.t + s.gap)) % 2 ^ s.cfg.ccw := rfl

theorem cc_lt : s.cc < 2 ^ s.cfg.ccw := Nat.mod_lt _ (by positivity)

/-- Time passes by the gap, seen through the counter (R30). -/
theorem cc_sample_eq : (sample s).cc = (s.cc + s.gap) % 2 ^ s.cfg.ccw := by
  simp [State.cc, Nat.add_assoc]

theorem overshoot_of_ideal {d : Nat} (h : s.cfg.profile = .ideal) : s.overshoot d = 0 := by
  simp [State.overshoot, h]

theorem overshoot_le_of_bounded {d : Nat} {J : Nat} (h : s.cfg.profile = .bounded J) (hd : 1 ≤ d) :
    s.overshoot d ≤ J - 1 := by
  simp [State.overshoot, h, Nat.ne_of_gt hd]

/-- The test of R81, at the sample. -/
theorem slotDue_sample : (sample s).slotDue = true ↔ s.per ≤ subMod s.cfg.ccw (sample s).cc s.tprev := decide_eq_true_iff

theorem not_slotDue_sample : (sample s).slotDue = false ↔ subMod s.cfg.ccw (sample s).cc s.tprev < s.per := by
  rw [← Bool.not_eq_true, slotDue_sample, Nat.not_le]

/-- The test of R83, at the sample. -/
theorem holdDue_sample :
    (sample s).holdDue = true ↔ s.currentDuration ≤ subMod s.cfg.ccw (sample s).cc s.tstart := decide_eq_true_iff

theorem not_holdDue_sample :
    (sample s).holdDue = false ↔ subMod s.cfg.ccw (sample s).cc s.tstart < s.currentDuration := by
  rw [← Bool.not_eq_true, holdDue_sample, Nat.not_le]

/-! ### The Pulse Driver -/

/-- The entry a micro-operation logs: its bank is chosen by `ALT`, its level is `ACT XOR INV` (R112). -/
theorem driverAction_wtrace (a i c : Bool) :
    (driverAction a i c s).wtrace = s.wtrace ++ [s.entry (if a then .alternate else .primary)
      (if a then s.cfg.abit else s.pin) (xor c i)] := by
  cases a <;> cases i <;> cases c <;> rfl

theorem driverAction_pout (a i c : Bool) :
    (driverAction a i c s).pout = if a then s.pout else replaceBit s.cfg.nl s.pout s.pin (xor c i) := by
  cases a <;> cases i <;> cases c <;> rfl

theorem driverAction_aout (a i c : Bool) :
    (driverAction a i c s).aout = if a then replaceBit s.cfg.aow s.aout s.cfg.abit (xor c i) else s.aout := by
  cases a <;> cases i <;> cases c <;> rfl

@[simp] theorem drive_wtrace (c : Bool) :
    (drive c s).wtrace = s.wtrace ++ [s.entry (if s.alt then .alternate else .primary)
      (if s.alt then s.cfg.abit else s.pin) (xor c s.inv)] := driverAction_wtrace ..

@[simp] theorem drive_pout (c : Bool) :
    (drive c s).pout = if s.alt then s.pout else replaceBit s.cfg.nl s.pout s.pin (xor c s.inv) :=
  driverAction_pout ..

@[simp] theorem drive_aout (c : Bool) :
    (drive c s).aout = if s.alt then replaceBit s.cfg.aow s.aout s.cfg.abit (xor c s.inv) else s.aout :=
  driverAction_aout ..

/-- Everything a micro-operation changes: the register of its bank and the trace. -/
theorem driverAction_eq (a i c : Bool) :
    driverAction a i c s = { s with
      pout := (driverAction a i c s).pout, aout := (driverAction a i c s).aout,
      wtrace := (driverAction a i c s).wtrace } := by
  cases a <;> cases i <;> cases c <;> rfl

/-- The line takes the level `ACT XOR INV` (R112), given that it exists. -/
theorem line_drive (c : Bool) (hp : s.alt = false → s.pin < s.cfg.nl) (ha : s.cfg.abit < s.cfg.aow) :
    (drive c s).line = xor c s.inv := by
  unfold State.line
  cases h : s.alt with
  | false => simp [h, replaceBit_testBit, hp h]
  | true => simp [h, replaceBit_testBit, ha]

/-! ### The acceptance of a command -/

/-- A byte fetch either makes the byte current or gives no step (U6). -/
theorem fetchByte_next {a : Nat} (h : fetchByte a s = .next s') :
    ∃ b, s.mem.read a = some b ∧ s' = loadByte b s := by
  unfold fetchByte State.memRead at h
  split at h
  · next b hb => exact ⟨b, hb, by simpa using h.symm⟩
  · cases h

theorem fetchByte_of_some {a : Nat} {b : Byte} (h : s.mem.read a = some b) :
    fetchByte a s = .next (loadByte b s) := by
  simp [fetchByte, State.memRead, h]

theorem fetchByte_of_none {a : Nat} (h : s.mem.read a = none) :
    fetchByte a s = .refused .stuckRead := by
  simp [fetchByte, State.memRead, h]

/-- A byte fetch that gives no step is stuck, at an address that cannot be read (U6). -/
theorem fetchByte_refused {a : Nat} {why : Refusal} (h : fetchByte a s = .refused why) :
    s.mem.read a = none ∧ why = .stuckRead := by
  unfold fetchByte State.memRead at h
  split at h
  · cases h
  · next hb =>
    injection h with h
    exact ⟨hb, h.symm⟩

/-- `startCall` either ends at once, on an empty buffer, or primes the baseline and fetches the first byte. -/
theorem startCall_next (h : startCall s = .next s') :
    (s.ptr = s.endAddr ∧ s' = enter .done s) ∨
    (s.ptr ≠ s.endAddr ∧ ∃ b, s.mem.read s.ptr = some b ∧ s' = loadByte b (prime (sample s))) := by
  unfold startCall at h
  split at h
  · next he => exact .inl ⟨he, by simpa using h.symm⟩
  · next hne =>
    obtain ⟨b, hb, rfl⟩ := fetchByte_next h
    exact .inr ⟨hne, b, by simpa using hb, rfl⟩

/-- Everything an accepted command can do (R80). -/
theorem accept_next {k : Command} (h : accept k s = .next s') :
    s.accepting = true ∧ trunc s.cfg.aw k.a0 ≤ trunc s.cfg.aw k.a1 ∧
    (k.alt = false → trunc s.cfg.pw k.a2 < s.cfg.nl) ∧ startCall (newCall k s) = .next s' := by
  unfold accept at h
  split at h
  · cases h
  · split at h
    · cases h
    · split at h
      · cases h
      · next h1 h2 h3 =>
        refine ⟨by simpa using h1, by omega, ?_, h⟩
        intro ha
        simpa [ha] using h3

theorem accept_of {k : Command} (h1 : s.accepting = true) (h2 : trunc s.cfg.aw k.a0 ≤ trunc s.cfg.aw k.a1)
    (h3 : k.alt = false → trunc s.cfg.pw k.a2 < s.cfg.nl) : accept k s = startCall (newCall k s) := by
  unfold accept
  have h3' : (!k.alt && decide (s.cfg.nl ≤ trunc s.cfg.pw k.a2)) = false := by
    cases ha : k.alt with
    | true => rfl
    | false => have := h3 ha; simp; omega
  simp [h1, Nat.not_lt.mpr h2, h3']

/-- The state after an accepted command keeps what is not the block's (R172). -/
theorem accept_frame {k : Command} (h : accept k s = .next s') :
    s'.cfg = s.cfg ∧ s'.mem = s.mem ∧ s'.c0 = s.c0 ∧ s'.pout = s.pout ∧ s'.aout = s.aout ∧
    s'.request = s.request ∧ s'.portOut = s.portOut ∧ s.t ≤ s'.t ∧ s'.wtrace = [] := by
  obtain ⟨-, -, -, h⟩ := accept_next h
  obtain ⟨-, rfl⟩ | ⟨-, b, -, rfl⟩ := startCall_next h <;> simp

theorem accepting_iff : s.accepting = true ↔ s.st = .idle ∨ s.st = .done := by
  simp [State.accepting]

/-- Between calls: without a command nothing happens. -/
theorem serveHost_of_none (h : s.request = none) : serveHost s = .next s := by
  simp [serveHost, h]

end Sys2Proof.Machine
end

