-- ==== Sys2Proof/Laws/Inv.lean ====
section
/-! SUPPORT. Every shared operation that can stand at the end of a step keeps the well-formedness of the state. -/

namespace Sys2Proof.Machine

variable {s s' : State}

/-- A one-hot mask shifted right is one-hot or zero (R22). -/
theorem mask_shift {m : Byte} (h : ∃ i < 8, m = 1#8 <<< i) (hn : m >>> 1 ≠ 0) :
    ∃ i < 8, m >>> 1 = 1#8 <<< i := by
  obtain ⟨i, hi, rfl⟩ := h
  obtain _ | i := i
  · exact absurd (by decide) hn
  · refine ⟨i, by omega, ?_⟩
    revert hi hn
    have h : ∀ j < 7, (1#8 <<< (j + 1)) >>> 1 = 1#8 <<< j := by decide
    exact fun hi _ => h i (by omega)

/-- An entry made now does not come before the entries of the trace (R49). -/
theorem trace_append (h : s.Inv) (p : Bank) (b : Nat) (l : Bool) :
    (s.wtrace ++ [s.entry p b l]).Pairwise fun e f => e.t ≤ f.t := by
  rw [List.pairwise_append]
  refine ⟨h.trace_ordered, List.pairwise_singleton .., fun a ha e he => ?_⟩
  rw [List.mem_singleton.mp he]
  exact (h.trace_stamped a ha).2

theorem inv_taken (h : s.Inv) : (taken s).Inv := { h with }

theorem inv_returnValue (h : s.Inv) (v : Nat) : (returnValue v s).Inv := { h with }

theorem inv_sample (h : s.Inv) : (sample s).Inv :=
  { h with
    repoll_waits := fun hr => by simp at hr
    trace_stamped := fun e he => ⟨(h.trace_stamped e he).1,
      le_trans (h.trace_stamped e he).2 (by simp only [sample_t, sample_cfg]; omega)⟩ }

theorem inv_elapse (h : s.Inv) (d : Nat) : (elapse d s).Inv :=
  { h with
    repoll_waits := fun hr => by simp at hr
    trace_stamped := fun e he => ⟨(h.trace_stamped e he).1,
      le_trans (h.trace_stamped e he).2 (by simp only [elapse_t, elapse_cfg]; omega)⟩ }

theorem inv_driverAction (h : s.Inv) (a i c : Bool) : (driverAction a i c s).Inv := by
  rw [driverAction_eq]
  refine { h with pout_fits := ?_, aout_fits := ?_, trace_stamped := ?_, trace_ordered := ?_ }
  · rw [driverAction_pout]
    split
    · exact h.pout_fits
    · exact replaceBit_lt ..
  · rw [driverAction_aout]
    split
    · exact replaceBit_lt ..
    · exact h.aout_fits
  · intro e he
    rw [driverAction_wtrace, List.mem_append, List.mem_singleton] at he
    obtain he | rfl := he
    · exact h.trace_stamped e he
    · exact ⟨rfl, le_refl _⟩
  · rw [driverAction_wtrace]
    exact trace_append h ..

theorem inv_sendSymbol (h : s.Inv) (bit : Bool) : (sendSymbol bit s).Inv :=
  inv_driverAction (inv_elapse (inv_driverAction h ..) _) ..

/-- A call that is accepted starts in a well-formed state (R80). -/
theorem inv_accept {k : Command} (h : s.Inv) (ha : accept k s = .next s') : s'.Inv := by
  obtain ⟨-, hle, hline, hs⟩ := accept_next ha
  have hpin : (newCall k s).pin < 2 ^ s.cfg.pw := by
    simp only [newCall, unspecified]
    split <;> exact trunc_lt ..
  have hmask : ∃ i < 8, 128#8 = 1#8 <<< i := ⟨7, by decide, rfl⟩
  obtain ⟨-, rfl⟩ | ⟨hne, b, hb, rfl⟩ := startCall_next hs
  · constructor <;> simp [State.running, unspecified, h.legal, h.mem_wf, h.c0_fits, h.pout_fits, h.aout_fits]
    · exact fun a b hab => h.mem_addr _ hab
    · exact hpin
    · exact hmask
  · simp only [newCall_ptr, newCall_endAddr, newCall_mem] at hne hb
    constructor <;> simp [State.running, unspecified, hb, h.legal, h.mem_wf, h.c0_fits, h.pout_fits, h.aout_fits]
    · exact fun a b hab => h.mem_addr _ hab
    · exact hpin
    · exact hmask
    · exact lt_of_le_of_ne hle hne
    · intro halt
      simpa [halt] using hline halt

end Sys2Proof.Machine
end

