-- ==== Sys2Proof/Laws/Memory.lean ====
section
/-! SUPPORT. The laws of the byte memory: read after write, and that a write keeps the canonical form. -/

namespace Sys2Proof.Machine

theorem Memory.read_write_same (m : Memory) (a : Nat) (b : Byte) : (Memory.write m a b).read a = some b := by
  induction m with
  | nil => simp [Memory.write, Memory.read]
  | cons x rest ih =>
    obtain ⟨k, v⟩ := x
    by_cases h1 : a < k
    · simp [Memory.write, h1, Memory.read]
    · by_cases h2 : a = k
      · simp [Memory.write, h2, Memory.read]
      · simp [Memory.write, h1, h2, Memory.read, ih]

theorem Memory.read_write_other (m : Memory) {a a' : Nat} (b : Byte) (h : a' ≠ a) :
    (Memory.write m a b).read a' = m.read a' := by
  induction m with
  | nil => simp [Memory.write, Memory.read, h]
  | cons x rest ih =>
    obtain ⟨k, v⟩ := x
    by_cases h1 : a < k
    · simp [Memory.write, h1, Memory.read, h]
    · by_cases h2 : a = k
      · subst h2; simp [Memory.write, Memory.read, h]
      · simp [Memory.write, h1, h2, Memory.read, ih]

/-- The canonical form as a statement about the list of addresses. -/
theorem Memory.wf_iff_sorted (m : Memory) : m.wf = true ↔ (m.map Prod.fst).IsChain (· < ·) := by
  match m with
  | [] => simp [Memory.wf]
  | [_] => simp [Memory.wf]
  | (a, _) :: (b, v) :: rest => simp [Memory.wf, Memory.wf_iff_sorted ((b, v) :: rest)]

/-- The first address after a write is the old first one or the one written. -/
theorem Memory.write_head (k : Nat) (v : Byte) (rest : Memory) (a : Nat) (b : Byte) :
    ∃ w tail, Memory.write ((k, v) :: rest) a b = (min a k, w) :: tail := by
  by_cases h1 : a < k
  · exact ⟨b, (k, v) :: rest, by simp [Memory.write, h1, Nat.min_eq_left h1.le]⟩
  · by_cases h2 : a = k
    · exact ⟨b, rest, by simp [Memory.write, h2]⟩
    · exact ⟨v, Memory.write rest a b, by simp [Memory.write, h1, h2]; omega⟩

/-- The caller's store keeps the canonical form. -/
theorem Memory.write_wf (m : Memory) (a : Nat) (b : Byte) (h : m.wf = true) :
    (Memory.write m a b).wf = true := by
  induction m with
  | nil => simp [Memory.write, Memory.wf]
  | cons x rest ih =>
    obtain ⟨k, v⟩ := x
    by_cases h1 : a < k
    · simp [Memory.write, h1, Memory.wf, h]
    · by_cases h2 : a = k
      · subst h2
        simp only [Memory.write, lt_irrefl, if_false, if_true]
        cases rest with
        | nil => simp [Memory.wf]
        | cons y rest => obtain ⟨k', v'⟩ := y; simpa [Memory.wf] using h
      · simp only [Memory.write, h1, h2, if_false]
        cases rest with
        | nil => simp [Memory.write, Memory.wf]; omega
        | cons y rest =>
          obtain ⟨k', v'⟩ := y
          simp only [Memory.wf, Bool.and_eq_true, decide_eq_true_eq] at h
          have hw := ih h.2
          obtain ⟨w, tail, e⟩ := Memory.write_head k' v' rest a b
          rw [e] at hw ⊢
          simp only [Memory.wf, Bool.and_eq_true, decide_eq_true_eq]
          exact ⟨by omega, hw⟩

/-- No operation of the block writes memory, so the canonical form needs no other law than this one. -/
theorem State.memRead_eq (s : State) (a : Nat) : s.memRead a = s.mem.read a := rfl

end Sys2Proof.Machine
end

