-- ==== Sys2Proof/Laws/PerInstr.lean ====
section
/-! SUPPORT. Statements about every operation as syntax, one lemma for each constructor.

`EncodeFits`: the word of a well-formed operation has no bit past its format (R60, R74). -/

namespace Sys2Proof.Laws.EncodeFits

/-- In every configuration in which the operation is well formed, its word fits its format. -/
def Statement (i : Instr) : Prop :=
  ∀ c : Config, i.wellFormed c = true → (encode c i).2 < 2 ^ (encode c i).1.width c

/-- One more field above a word that fits: the fields do not overlap. -/
theorem add_field {n m a b : Nat} (ha : a < 2 ^ n) (hb : b < 2 ^ m) : a + 2 ^ n * b < 2 ^ (n + m) := by
  have h : 2 ^ n * (b + 1) ≤ 2 ^ n * 2 ^ m := Nat.mul_le_mul_left _ hb
  rw [Nat.pow_add]
  rw [Nat.mul_add] at h
  omega

/-- A command word fits, whatever its selector. -/
theorem command {c : Config} {op a0 a1 a2 a3 a4 a5 : Nat} (hop : op < 2 ^ 2)
    (h : argumentsFit c a0 a1 a2 a3 a4 a5 = true) :
    (encodeCommand c op a0 a1 a2 a3 a4 a5).2 < 2 ^ Format.cmd.width c := by
  simp only [argumentsFit, fits, Bool.and_eq_true, decide_eq_true_eq] at h
  obtain ⟨⟨⟨⟨⟨h0, h1⟩, h2⟩, h3⟩, h4⟩, h5⟩ := h
  simp only [encodeCommand, Format.width, Nat.add_assoc]
  exact add_field hop (add_field h0 (add_field h1 (add_field h2 (add_field h3 (add_field h4 h5)))))

theorem txpn (a0 a1 a2 a3 a4 a5 : Nat) : Statement (.txpn a0 a1 a2 a3 a4 a5) := fun _ h => command (by decide) h
theorem txpi (a0 a1 a2 a3 a4 a5 : Nat) : Statement (.txpi a0 a1 a2 a3 a4 a5) := fun _ h => command (by decide) h
theorem txan (a0 a1 a2 a3 a4 a5 : Nat) : Statement (.txan a0 a1 a2 a3 a4 a5) := fun _ h => command (by decide) h
theorem txai (a0 a1 a2 a3 a4 a5 : Nat) : Statement (.txai a0 a1 a2 a3 a4 a5) := fun _ h => command (by decide) h
theorem idle : Statement .idle := fun _ _ => by simp [encode, Format.width]
theorem awaitSlot : Statement .awaitSlot := fun _ _ => by simp [encode, Format.width]
theorem assert : Statement .assert := fun _ _ => by simp [encode, Format.width]
theorem hold : Statement .hold := fun _ _ => by simp [encode, Format.width]
theorem deassert : Statement .deassert := fun _ _ => by simp [encode, Format.width]
theorem advance : Statement .advance := fun _ _ => by simp [encode, Format.width]
theorem done : Statement .done := fun _ _ => by simp [encode, Format.width]
theorem assertPN : Statement .assertPN := fun _ _ => by simp [encode, Format.width]
theorem deassertPN : Statement .deassertPN := fun _ _ => by simp [encode, Format.width]
theorem assertPI : Statement .assertPI := fun _ _ => by simp [encode, Format.width]
theorem deassertPI : Statement .deassertPI := fun _ _ => by simp [encode, Format.width]
theorem assertAN : Statement .assertAN := fun _ _ => by simp [encode, Format.width]
theorem deassertAN : Statement .deassertAN := fun _ _ => by simp [encode, Format.width]
theorem assertAI : Statement .assertAI := fun _ _ => by simp [encode, Format.width]
theorem deassertAI : Statement .deassertAI := fun _ _ => by simp [encode, Format.width]
theorem dur (bit : Bool) : Statement (.dur bit) := fun _ _ => by cases bit <;> simp [encode, Format.width]
theorem now : Statement .now := fun _ _ => by simp [encode, Format.width]
theorem sym0 : Statement .sym0 := fun _ _ => by simp [encode, Format.width]
theorem sym1 : Statement .sym1 := fun _ _ => by simp [encode, Format.width]

end Sys2Proof.Laws.EncodeFits
end

