-- ==== Sys2Proof/Laws/Step.lean ====
section
/-! SUPPORT. What a step can do: one lemma for each operation, and one for the step. -/

namespace Sys2Proof.Machine

variable {s s' : State}

theorem taken_of_none (h : s.request = none) : taken s = s := by
  cases s; simp_all [taken]

/-- Each command is `accept` of its tuple (R132 to R135). -/
theorem exec_command (k : Command) : exec k.instr s = accept k s := by
  obtain ⟨alt, inv, a0, a1, a2, a3, a4, a5⟩ := k
  cases alt <;> cases inv <;> rfl

/-- Each driver row is its register action (R104 to R111). -/
theorem exec_driver (a i c : Bool) : exec (Instr.driver a i c) s = .next (driverAction a i c s) := by
  cases a <;> cases i <;> cases c <;> rfl

theorem exec_symbol (b : Bool) : exec (Instr.symbol b) s = .next (sendSymbol b s) := by
  cases b <;> rfl

/-- Every state code decodes to its micro-step (R72). -/
theorem decode_stateCode (c : Config) (x : LoopState) : decode c .st x.code = .ok x.microStep := by
  cases x <;> rfl

theorem intruded_of_none (h : s.request = none) : s.intruded = false := by
  simp [State.intruded, h]

/-- On a bench between calls everything that is issued can be taken. -/
theorem intruded_of_bench (hb : s.cfg.bench = true) (h : s.accepting = true) : s.intruded = false := by
  unfold State.intruded
  split <;> simp [h, hb]

/-- A command never intrudes: `accept` refuses it during a call. -/
theorem intruded_of_command {w : Nat} (h : s.request = some (.cmd w)) : s.intruded = false := by
  simp [State.intruded, h]

/-- A component operation intrudes everywhere but on a bench between calls (R145, log 11). -/
theorem intruded_of_component {r : Request} (h : s.request = some r) (hr : r.format ≠ .cmd) :
    s.intruded = !(s.cfg.bench && s.accepting) := by
  cases r <;> simp_all [State.intruded, Request.format]

theorem step_of_intruded (h : s.intruded = true) : step s = .refused .noSuchInteraction := if_pos h

/-- A step that nothing intrudes upon runs what it fetches. -/
theorem step_of_not_intruded (h : s.intruded = false) :
    step s = match decode s.cfg (fetch s).1 (fetch s).2 with
      | .ok i => exec i (taken s)
      | .error e => .refused (.undecodable e) :=
  if_neg (by simp [h])

/-- With nothing issued from outside, a step is the micro-step that `ST` selects. -/
theorem step_of_none (h : s.request = none) : step s = exec s.st.microStep s := by
  simp [step_of_not_intruded (intruded_of_none h), fetch, h, decode_stateCode, taken_of_none h]

/-- Everything a step can do while nothing is issued from outside: the rows of R89's table. -/
inductive LoopStep (s : State) : State → Prop
  | rest (h : s.st = .idle ∨ s.st = .done) : LoopStep s s
  | slotStarts (h : s.st = .awaitSlot) (due : (sample s).slotDue = true) : LoopStep s (startSlot (sample s))
  | slotNotDue (h : s.st = .awaitSlot) (due : (sample s).slotDue = false) :
      LoopStep s (pollAgain .awaitSlot (sample s))
  | asserts (h : s.st = .assert) : LoopStep s (enter .hold (drive true s))
  | holdEnds (h : s.st = .hold) (due : (sample s).holdDue = true) : LoopStep s (enter .deassert (sample s))
  | holdGoesOn (h : s.st = .hold) (due : (sample s).holdDue = false) : LoopStep s (pollAgain .hold (sample s))
  | deasserts (h : s.st = .deassert) : LoopStep s (enter .advance (drive false s))
  | nextBit (h : s.st = .advance) (hm : s.mask >>> 1 ≠ 0) : LoopStep s (enter .awaitSlot (shiftMask s))
  | callEnds (h : s.st = .advance) (hm : s.mask >>> 1 = 0) (he : incMod s.cfg.aw s.ptr = s.endAddr) :
      LoopStep s (enter .done (nextAddress (shiftMask s)))
  | nextByte (h : s.st = .advance) (hm : s.mask >>> 1 = 0) (he : incMod s.cfg.aw s.ptr ≠ s.endAddr) (b : Byte)
      (hb : s.mem.read (incMod s.cfg.aw s.ptr) = some b) :
      LoopStep s (loadByte b (nextAddress (shiftMask s)))

/-- R81, taken apart. -/
theorem execAwaitSlot_next (h : execAwaitSlot s = .next s') :
    ((sample s).slotDue = true ∧ s' = startSlot (sample s)) ∨
    ((sample s).slotDue = false ∧ s' = pollAgain .awaitSlot (sample s)) := by
  unfold execAwaitSlot testPeriod at h
  split at h
  · next hd => exact .inl ⟨hd, by simpa using h.symm⟩
  · next hd => exact .inr ⟨by simpa using hd, by simpa using h.symm⟩

/-- R83, taken apart. -/
theorem execHold_next (h : execHold s = .next s') :
    ((sample s).holdDue = true ∧ s' = enter .deassert (sample s)) ∨
    ((sample s).holdDue = false ∧ s' = pollAgain .hold (sample s)) := by
  unfold execHold testDuration at h
  split at h
  · next hd => exact .inl ⟨hd, by simpa using h.symm⟩
  · next hd => exact .inr ⟨by simpa using hd, by simpa using h.symm⟩

/-- R85, taken apart: the next bit, the end of the buffer, or the next byte. -/
theorem execAdvance_next (hst : s.st = .advance) (h : execAdvance s = .next s') : LoopStep s s' := by
  unfold execAdvance nextBit Machine.nextByte at h
  split at h
  · next hm =>
    split at h
    · next he =>
      injection h with h
      subst h
      exact .callEnds hst hm he
    · next he =>
      obtain ⟨b, hb, rfl⟩ := fetchByte_next h
      exact .nextByte hst hm he b hb
  · next hm =>
    injection h with h
    subst h
    exact .nextBit hst hm

/-- With nothing issued from outside, a step is a row of R89's table. -/
theorem step_quiet (hq : s.request = none) (h : step s = .next s') : LoopStep s s' := by
  rw [step_of_none hq] at h
  cases hst : s.st <;> rw [hst] at h
  · have h : serveHost s = .next s' := h
    rw [serveHost_of_none hq] at h
    injection h with h
    subst h
    exact .rest (.inl hst)
  · obtain ⟨hd, rfl⟩ | ⟨hd, rfl⟩ := execAwaitSlot_next h
    · exact .slotStarts hst hd
    · exact .slotNotDue hst hd
  · injection h with h
    subst h
    exact .asserts hst
  · obtain ⟨hd, rfl⟩ | ⟨hd, rfl⟩ := execHold_next h
    · exact .holdEnds hst hd
    · exact .holdGoesOn hst hd
  · injection h with h
    subst h
    exact .deasserts hst
  · exact execAdvance_next hst h
  · have h : serveHost s = .next s' := h
    rw [serveHost_of_none hq] at h
    injection h with h
    subst h
    exact .rest (.inr hst)

/-- With nothing issued from outside, a state without a step is stuck on the byte that `ADVANCE` has to fetch. -/
theorem step_quiet_refused {why : Refusal} (hq : s.request = none) (h : step s = .refused why) :
    why = .stuckRead ∧ s.st = .advance ∧ s.mask >>> 1 = 0 ∧ incMod s.cfg.aw s.ptr ≠ s.endAddr ∧
      s.mem.read (incMod s.cfg.aw s.ptr) = none := by
  have hrest : serveHost s ≠ .refused why := by simp [serveHost_of_none hq]
  rw [step_of_none hq] at h
  cases hst : s.st <;> rw [hst] at h
  · exact absurd h hrest
  · have h : testPeriod (sample s) = .refused why := h
    unfold testPeriod at h
    split at h <;> cases h
  · cases h
  · have h : testDuration (sample s) = .refused why := h
    unfold testDuration at h
    split at h <;> cases h
  · cases h
  · have h : nextBit (shiftMask s) = .refused why := h
    unfold nextBit Machine.nextByte at h
    split at h
    · next hm =>
      split at h
      · cases h
      · next he =>
        obtain ⟨hb, rfl⟩ := fetchByte_refused h
        exact ⟨rfl, rfl, hm, he, hb⟩
    · cases h
  · exact absurd h hrest

/-- A row of the table is a step, so the two say the same. -/
theorem LoopStep.step (hq : s.request = none) (h : LoopStep s s') : Machine.step s = .next s' := by
  rw [step_of_none hq]
  cases h with
  | rest h =>
    obtain h | h := h <;> rw [h]
    · exact serveHost_of_none hq
    · exact serveHost_of_none hq
  | slotStarts h due => rw [h]; exact if_pos due
  | slotNotDue h due =>
    rw [h]
    exact if_neg (by simp [due])
  | asserts h => rw [h]; rfl
  | holdEnds h due => rw [h]; exact if_pos due
  | holdGoesOn h due =>
    rw [h]
    exact if_neg (by simp [due])
  | deasserts h => rw [h]; rfl
  | nextBit h hm => rw [h]; exact if_neg hm
  | callEnds h hm he => rw [h]; exact (if_pos hm).trans (if_pos he)
  | nextByte h hm he b hb =>
    rw [h]
    exact (if_pos hm).trans ((if_neg he).trans (fetchByte_of_some hb))

/-- Everything a step can do with an issued operation `r`: take a command between calls (R80), and, on a component
bench, run an operation of a component between calls. -/
inductive IssuedStep (s : State) : Request → State → Prop
  | command (w : Nat) (s' : State) (h : accept (commandOfWord s.cfg w) (taken s) = .next s') :
      IssuedStep s (.cmd w) s'
  | driver (w : Nat) (a i c : Bool) (hb : s.cfg.bench = true) (h : s.accepting = true) :
      IssuedStep s (.drv w) (driverAction a i c (taken s))
  | duration (w : Nat) (bit : Bool) (hb : s.cfg.bench = true) (h : s.accepting = true) :
      IssuedStep s (.dur w) (returnValue (s.duration bit) (taken s))
  | now (w : Nat) (hb : s.cfg.bench = true) (h : s.accepting = true) :
      IssuedStep s (.clk w) (returnValue (sample (taken s)).cc (sample (taken s)))
  | symbol (w : Nat) (bit : Bool) (hb : s.cfg.bench = true) (h : s.accepting = true) :
      IssuedStep s (.sym w) (sendSymbol bit (taken s))

/-- A decoded word fits its format. -/
theorem decode_ok {c : Config} {f : Format} {w : Nat} {i : Instr} (h : decode c f w = .ok i) :
    w < 2 ^ f.width c := by
  unfold decode at h
  by_contra hw
  rw [if_pos (by omega)] at h
  cases h

/-- A step that takes an issued operation runs it. -/
theorem step_issued {r : Request} (hr : s.request = some r) (h : step s = .next s') : IssuedStep s r s' := by
  have hn : s.intruded = false := by
    by_contra hi
    rw [step_of_intruded (by simpa using hi)] at h
    cases h
  have ha : r.format ≠ .cmd → s.cfg.bench = true ∧ s.accepting = true := fun hf => by
    rw [intruded_of_component hr hf] at hn
    simpa using hn
  rw [step_of_not_intruded hn] at h
  unfold fetch at h
  simp only [hr] at h
  cases hd : decode s.cfg r.format r.word with
  | error e => rw [hd] at h; cases h
  | ok i =>
    have hw := decode_ok hd
    unfold decode at hd
    rw [if_neg (by omega)] at hd
    unfold decode at h
    rw [if_neg (by omega)] at h
    cases r with
    | cmd w => exact .command w s' (by rw [← exec_command]; exact h)
    | drv w =>
      have h : exec (Instr.driver _ _ _) (taken s) = .next s' := h
      rw [exec_driver] at h
      injection h with h
      subst h
      exact .driver _ _ _ _ (ha (by simp [Request.format])).1 (ha (by simp [Request.format])).2
    | dur w =>
      injection h with h
      subst h
      exact .duration _ _ (ha (by simp [Request.format])).1 (ha (by simp [Request.format])).2
    | clk w =>
      injection h with h
      subst h
      exact .now w (ha (by simp [Request.format])).1 (ha (by simp [Request.format])).2
    | sym w =>
      have h : exec (Instr.symbol _) (taken s) = .next s' := h
      rw [exec_symbol] at h
      injection h with h
      subst h
      exact .symbol _ _ (ha (by simp [Request.format])).1 (ha (by simp [Request.format])).2

/-- Whatever a step takes from outside, it takes between calls. -/
theorem step_issued_accepting {r : Request} (hr : s.request = some r) (h : step s = .next s') :
    s.accepting = true := by
  cases step_issued hr h with
  | command _ _ ha => exact (accept_next ha).1
  | driver => assumption
  | duration => assumption
  | now => assumption
  | symbol => assumption

/-- What the block, which is no bench, takes from outside is a command (R145). -/
theorem step_issued_command {r : Request} (hb : s.cfg.bench = false) (hr : s.request = some r)
    (h : step s = .next s') : ∃ w, r = .cmd w ∧ accept (commandOfWord s.cfg w) (taken s) = .next s' := by
  cases step_issued hr h with
  | command w _ ha => exact ⟨w, rfl, ha⟩
  | _ => simp_all

/-! ### Runs -/

/-- A run of `n + 1` steps is a step and a run of `n` steps. -/
theorem run_succ {M : Host.Core} {n : Nat} {s t : M.State} (h : M.run (n + 1) s = .next t) :
    ∃ u, M.step s = .next u ∧ M.run n u = .next t := by
  rw [Host.Core.run] at h
  split at h
  · next u hs => exact ⟨u, hs, h⟩
  · cases h
  · cases h

/-- What a run reaches. -/
theorem reaches_of_run {n : Nat} {s t : State} (h : Sys2Proof.core.run n s = .next t) : Reaches s t := by
  induction n generalizing s with
  | zero =>
    injection h with h
    exact h ▸ .refl
  | succ n ih =>
    obtain ⟨u, hs, h⟩ := run_succ h
    exact .head hs (ih h)

end Sys2Proof.Machine
end

