-- ==== Sys2Proof/Tests/Slice0.lean ====
section
/-! SUPPORT. Tests of the model: the ill-formed terms, words written out from the tables, the one-step vectors of
spec/95_test_vectors.md (named in each comment), and a witness for every statement with hypotheses. -/

namespace Sys2Proof.Tests

open Machine

/-! ### Helpers -/

/-- What is looked at in the next state, if there is one. -/
def look {α : Type} (o : Host.Outcome State Fault Refusal) (f : State → α) : Option α :=
  match o with
  | .next s => some (f s)
  | _ => none

/-- The outcome is a next state. -/
def goesOn (o : Host.Outcome State Fault Refusal) : Bool := (look o fun _ => ()).isSome

/-- The next state, or `s` where there is none. -/
def after (s : State) (o : Host.Outcome State Fault Refusal) : State := (look o id).getD s

theorem eq_next_after {s : State} {o : Host.Outcome State Fault Refusal} (h : goesOn o = true) :
    o = .next (after s o) := by
  cases o with
  | next t => rfl
  | fault f => cases h
  | refused r => cases h

/-- Why a step stops, if it does. -/
def stops (o : Host.Outcome State Fault Refusal) : Option Refusal :=
  match o with
  | .refused r => some r
  | _ => none

theorem eq_refused_of_stops {o : Host.Outcome State Fault Refusal} {r : Refusal} (h : stops o = some r) :
    o = .refused r := by
  cases o <;> simp_all [stops]

/-- The fields of `State.Inv`, each in a decidable form. -/
def invHolds (s : State) : Bool :=
  s.cfg.legal && Memory.wf s.mem && decide (∀ x ∈ s.mem, x.1 < 2 ^ s.cfg.aw) &&
  decide (s.endAddr < 2 ^ s.cfg.aw ∧ s.ptr < 2 ^ s.cfg.aw ∧ s.sh < 2 ^ s.cfg.ccw ∧ s.lh < 2 ^ s.cfg.ccw ∧
    s.per < 2 ^ s.cfg.ccw ∧ s.tstart < 2 ^ s.cfg.ccw ∧ s.tprev < 2 ^ s.cfg.ccw ∧ s.c0 < 2 ^ s.cfg.ccw ∧
    s.pin < 2 ^ s.cfg.pw ∧ s.pout < 2 ^ s.cfg.nl ∧ s.aout < 2 ^ s.cfg.aow) &&
  decide (∃ i < 8, s.mask = 1#8 <<< i) &&
  decide ((s.st = .idle ∨ s.st = .done) ∨
    s.ptr < s.endAddr ∧ Memory.read s.mem s.ptr = some s.cur ∧ (s.alt = true ∨ s.pin < s.cfg.nl)) &&
  decide (s.repoll = false ∨ s.st = .awaitSlot ∨ s.st = .hold) &&
  decide (∀ e ∈ s.wtrace, e.c = (s.c0 + e.t) % 2 ^ s.cfg.ccw ∧ e.t ≤ s.t + s.cfg.wlat) &&
  decide (s.wtrace.Pairwise fun e f => e.t ≤ f.t)

theorem inv_of_holds {s : State} (h : invHolds s = true) : s.Inv := by
  simp only [invHolds, Bool.and_eq_true, decide_eq_true_eq] at h
  obtain ⟨⟨⟨⟨⟨⟨⟨⟨h1, h2⟩, h3⟩, h4, h5, h6, h7, h8, h9, h10, h11, h12, h13, h14⟩, h15⟩, h16⟩, h17⟩, h18⟩, h19⟩ := h
  have hrun : s.running →
      s.ptr < s.endAddr ∧ Memory.read s.mem s.ptr = some s.cur ∧ (s.alt = true ∨ s.pin < s.cfg.nl) :=
    fun hr => h16.resolve_left fun h => h.elim hr.1 hr.2
  exact ⟨h1, h2, h3, h4, h5, h6, h7, h8, h9, h10, h11, h12, h13, h14, h15, fun hr => (hrun hr).1,
    fun hr => (hrun hr).2.1, fun hr ha => (hrun hr).2.2.resolve_left (by simp [ha]),
    fun hr => h17.resolve_left (by simp [hr]), h18, h19⟩

/-- A state of the default configuration in the ideal profile, with the latches of program P1: what a vector does
not name is as P1 has it. -/
def p1 : State :=
  { State.reset with
    cfg := { Config.default with profile := .ideal }
    pin := 2, endAddr := 0x1001, sh := 20, lh := 52, per := 80
    ptr := 0x1000, mask := 0x80, cur := 0xB2, mem := [(0x1000, 0xB2)] }

/-- The command of program P1. -/
def p1Command : Command :=
  { alt := false, inv := false, a0 := 0x1000, a1 := 0x1001, a2 := 2, a3 := 20, a4 := 52, a5 := 80 }

/-- A small machine: 6-bit counter, 12 lines, `WLAT` 1, in mid-call on a two-byte buffer, counter near its wrap. -/
def small (profile : Profile) : State :=
  { State.reset with
    cfg := { Config.default with ccw := 6, aw := 8, nl := 12, aow := 8, abit := 3, wlat := 1, profile := profile }
    pin := 5, endAddr := 0x12, sh := 1, lh := 2, per := 4
    ptr := 0x10, mask := 0x80, cur := 0xF0, mem := [(0x10, 0xF0), (0x11, 0x0F)]
    pout := 0x811, aout := 0xA0, c0 := 62, t := 1, tstart := 63, tprev := 59
    wtrace := [⟨1, 63, .primary, 5, false⟩], stalls := List.replicate 40 0 }

/-- `small` in a loop state. -/
def smallIn (profile : Profile) (x : LoopState) : State := { small profile with st := x }

/-- The small machine as a component bench, with an operation of a component issued. -/
def benched (r : Request) (x : LoopState) : State :=
  { smallIn .ideal x with cfg := { (small .ideal).cfg with bench := true }, request := some r }

/-- A one-byte call on the small machine. -/
def smallCommand (alt : Bool) : Command :=
  { alt := alt, inv := true, a0 := 0x10, a1 := 0x11, a2 := 5, a3 := 1, a4 := 2, a5 := 4 }

/-! ### WellFormed refuses each ill-formed operand -/

theorem test_illFormed_a0 : (Instr.txpn (2 ^ 32) 0 0 0 0 0).wellFormed Config.default = false := by decide
theorem test_illFormed_a1 : (Instr.txpi 0 (2 ^ 32) 0 0 0 0).wellFormed Config.default = false := by decide
theorem test_illFormed_a2 : (Instr.txan 0 0 16 0 0 0).wellFormed Config.default = false := by decide
theorem test_illFormed_a3 : (Instr.txai 0 0 0 (2 ^ 32) 0 0).wellFormed Config.default = false := by decide
theorem test_illFormed_a4 : (Instr.txpn 0 0 0 0 (2 ^ 32) 0).wellFormed Config.default = false := by decide
theorem test_illFormed_a5 : (Instr.txpi 0 0 0 0 0 (2 ^ 32)).wellFormed Config.default = false := by decide
theorem test_wellFormed_maxima :
    (Instr.txpn (2 ^ 32 - 1) (2 ^ 32 - 1) 15 (2 ^ 32 - 1) (2 ^ 32 - 1) (2 ^ 32 - 1)).wellFormed Config.default =
      true := by decide

/-! ### Words written out from spec/30_encoding.md -/

/-- V30-1 to V30-4 with the operands of programs P1, P2, P3 and P5. -/
theorem test_decode_commands :
    [decode Config.default .cmd (0b00 + 0x1000 * 2 ^ 2 + 0x1001 * 2 ^ 34 + 2 * 2 ^ 66 + 20 * 2 ^ 70 + 52 * 2 ^ 102 +
        80 * 2 ^ 134),
      decode Config.default .cmd (0b01 + 0x2000 * 2 ^ 2 + 0x2002 * 2 ^ 34 + 5 * 2 ^ 66 + 3 * 2 ^ 70 + 7 * 2 ^ 102 +
        10 * 2 ^ 134),
      decode Config.default .cmd (0b10 + 0x3000 * 2 ^ 2 + 0x3001 * 2 ^ 34 + 30 * 2 ^ 70 + 70 * 2 ^ 102 +
        100 * 2 ^ 134),
      decode Config.default .cmd (0b11 + 0x4000 * 2 ^ 2 + 0x4000 * 2 ^ 34 + 20 * 2 ^ 70 + 52 * 2 ^ 102 +
        80 * 2 ^ 134)].map Except.toOption =
    [some (.txpn 0x1000 0x1001 2 20 52 80), some (.txpi 0x2000 0x2002 5 3 7 10),
      some (.txan 0x3000 0x3001 0 30 70 100), some (.txai 0x4000 0x4000 0 20 52 80)] := by decide

/-- R72, the whole table with the unused code 7. -/
theorem test_decode_stateCodes :
    [0b000, 0b001, 0b010, 0b011, 0b100, 0b101, 0b110, 0b111].map
        (fun w => (decode Config.default .st w).toOption) =
      [some .idle, some .awaitSlot, some .assert, some .hold, some .deassert, some .advance, some .done, none] := by
  decide

/-- R70, the whole table; V30-17 and V30-18. -/
theorem test_decode_drivers :
    [0b000, 0b001, 0b010, 0b011, 0b100, 0b101, 0b110, 0b111].map
        (fun w => (decode Config.default .drv w).toOption) =
      [some .deassertPN, some .assertPN, some .deassertPI, some .assertPI, some .deassertAN, some .assertAN,
        some .deassertAI, some .assertAI] := by decide

/-- The rows DUR, NOW, SYM0 and SYM1 of spec/opcode_table.json. -/
theorem test_decode_timing :
    [(Format.dur, 0), (.dur, 1), (.clk, 0), (.sym, 0), (.sym, 1), (.clk, 1), (.sym, 2)].map
        (fun p => (decode Config.default p.1 p.2).toOption) =
      [some (.dur false), some (.dur true), some .now, some .sym0, some .sym1, none, none] := by decide

/-- Each table number is read in the first format that has a row for it (log 15). -/
theorem test_decodeTableWord :
    (List.range 8).map (decodeTableWord 8) =
      [some (.txpn 0 0 0 0 0 0), some (.txpi 0 0 0 0 0 0), some (.txan 0 0 0 0 0 0), some (.txai 0 0 0 0 0 0),
        some .deassert, some .advance, some .done, some .assertAI] := by decide

/-- The first step after reset runs the word placed there, and goes on. -/
theorem test_withFetchWord :
    ((List.range 8).all fun w => goesOn (step (State.reset.withFetchWord 8 w))) = true := by decide

/-! ### Commands (R80) -/

/-- V40-1. -/
theorem test_txpn_starts :
    look (exec p1Command.instr p1) (fun t => (t.alt, t.inv, t.pin, t.endAddr, t.ptr)) =
      some (false, false, 2, 0x1001, 0x1000) ∧
    look (exec p1Command.instr p1) (fun t => [t.sh, t.lh, t.per, t.tprev]) = some [20, 52, 80, 0xFFFFFFB0] ∧
    look (exec p1Command.instr p1) (fun t => (t.mask, t.cur, t.st)) = some (0x80, 0xB2, .awaitSlot) := by decide

/-- V40-2. -/
theorem test_txpn_empty :
    look (exec (.txpn 0x1000 0x1000 2 20 52 80) p1) (fun t => (t.ptr, t.mask, t.st, t.t, t.wtrace)) =
    some (0x1000, 0x80, .done, 0, []) := by decide

/-- Program P2 after rule R80: `TPREV = 0x3DE`, `CUR = 0xFF`. -/
theorem test_txpi_starts :
    look (exec (.txpi 0x2000 0x2002 5 3 7 10)
        { p1 with mem := [(0x2000, 0xFF), (0x2001, 0x00)], c0 := 1000, pout := 0x20 })
      (fun t => (t.alt, t.inv, t.pin, t.tprev, t.cur, t.pout)) =
    some (false, true, 5, 0x3DE, 0xFF, 0x20) := by decide

/-- Program P3 after rule R80: `TPREV = 0xFFFFFE9C`, `CUR = 0xA5`. -/
theorem test_txan_starts :
    look (exec (.txan 0x3000 0x3001 9 30 70 100) { p1 with mem := [(0x3000, 0xA5)], c0 := 0xFFFFFF00, aout := 0xA0 })
      (fun t => (t.alt, t.inv, t.tprev, t.cur, t.aout)) =
    some (true, false, 0xFFFFFE9C, 0xA5, 0xA0) := by decide

/-- Program P5. -/
theorem test_txai_empty :
    look (exec (.txai 0x4000 0x4000 0 20 52 80) { p1 with aout := 1 })
      (fun t => (t.alt, t.inv, t.st, t.wtrace, t.aout)) =
    some (true, true, .done, [], 1) := by decide

/-- V30-8: with 12 lines, line 12 is refused. -/
theorem test_line_refused :
    stops (exec (.txpn 0x10 0x11 12 1 2 4) (smallIn .ideal .idle)) = some .noSuchLine := by decide

/-- V30-9: an alternate variant ignores the line index. -/
theorem test_line_ignored : goesOn (exec (.txan 0x10 0x11 12 1 2 4) (smallIn .ideal .idle)) = true := by decide

/-- V30-12. -/
theorem test_end_refused :
    stops (exec (.txpn 0x1001 0x1000 2 20 52 80) p1) = some .endBeforeStart := by decide

/-! ### Micro-steps (R81 to R86) -/

/-- V40-22: `IDLE` and `DONE` do nothing by themselves. -/
theorem test_idle_done :
    look (exec .idle p1) (fun t => (t.st, t.t, t.ptr)) = some (.idle, 0, 0x1000) ∧
    look (exec .done { p1 with st := .done }) (fun t => (t.st, t.t, t.ptr)) = some (.done, 0, 0x1000) := by decide

/-- V40-8: one tick short, across a wrap. -/
theorem test_awaitSlot_polls :
    look (exec .awaitSlot { p1 with st := .awaitSlot, tprev := 0xFFFFFFF0, t := 0x3F })
      (fun t => (t.st, t.repoll)) = some (.awaitSlot, true) := by decide

/-- V40-9. -/
theorem test_awaitSlot_starts :
    look (exec .awaitSlot { p1 with st := .awaitSlot, tprev := 0xFFFFFFF0, t := 0x40 })
      (fun t => (t.st, t.tstart)) = some (.assert, 0x40) := by decide

/-- V40-11. -/
theorem test_assert :
    look (exec .assert { p1 with st := .assert, t := 80 }) (fun t => (t.st, t.wtrace, t.pout)) =
      some (.hold, [⟨80, 80, .primary, 2, true⟩], 4) := by decide

/-- V40-12. -/
theorem test_hold_polls :
    look (exec .hold { p1 with st := .hold, tstart := 80, mask := 0x40, t := 99 }) (fun t => (t.st, t.repoll)) =
      some (.hold, true) := by decide

/-- V40-16: the last sample, across a wrap. -/
theorem test_hold_ends :
    look (exec .hold { p1 with st := .hold, tstart := 0xFFFFFFC8, cur := 0xA5, mask := 0x20, lh := 70, t := 0xE })
      (fun t => (t.st, t.repoll)) = some (.deassert, false) := by decide

/-- V40-18. -/
theorem test_deassert :
    look (exec .deassert { p1 with st := .deassert, t := 100, pout := 4 }) (fun t => (t.st, t.wtrace, t.pout)) =
      some (.advance, [⟨100, 100, .primary, 2, false⟩], 0) := by decide

/-- V40-19. -/
theorem test_advance_bit :
    look (exec .advance { p1 with st := .advance, tstart := 80, mask := 0x40 })
      (fun t => (t.tprev, t.mask, t.st, t.ptr)) = some (80, 0x20, .awaitSlot, 0x1000) := by decide

/-- V40-20 and V40-21. -/
theorem test_advance_byte :
    look (exec .advance { p1 with st := .advance, tstart := 560, mask := 1, endAddr := 0x1002,
                                  mem := [(0x1000, 0xB2), (0x1001, 0x0F)] })
      (fun t => (t.tprev, t.mask, t.ptr, t.cur, t.st)) = some (560, 0x80, 0x1001, 0x0F, .awaitSlot) ∧
    look (exec .advance { p1 with st := .advance, tstart := 560, mask := 1 })
      (fun t => (t.tprev, t.mask, t.ptr, t.st)) = some (560, 0x80, 0x1001, .done) := by decide

/-! ### The Pulse Driver (R104 to R111) -/

/-- V41-1 and V41-9. -/
theorem test_assertPN :
    look (exec .assertPN { p1 with pout := 0x10 }) (fun t => (t.pout, t.wtrace)) =
      some (0x14, [⟨0, 0, .primary, 2, true⟩]) ∧
    look (exec .assertPN { p1 with pout := 0x4 }) (fun t => (t.pout, t.wtrace.length)) = some (0x4, 1) := by decide

/-- V41-2 and V41-11. -/
theorem test_deassertPN :
    look (exec .deassertPN { p1 with pout := 0x14 }) (fun t => (t.pout, t.wtrace)) =
      some (0x10, [⟨0, 0, .primary, 2, false⟩]) ∧
    look (exec .deassertPN { p1 with pin := 0, pout := 0xFFFF }) (fun t => t.pout) = some 0xFFFE := by decide

/-- V41-3. -/
theorem test_assertPI :
    look (exec .assertPI { p1 with pout := 0x14 }) (fun t => (t.pout, t.wtrace)) =
      some (0x10, [⟨0, 0, .primary, 2, false⟩]) := by decide

/-- V41-4. -/
theorem test_deassertPI :
    look (exec .deassertPI { p1 with pout := 0x10 }) (fun t => (t.pout, t.wtrace)) =
      some (0x14, [⟨0, 0, .primary, 2, true⟩]) := by decide

/-- V41-5. -/
theorem test_assertAN :
    look (exec .assertAN { p1 with aout := 0xA0 }) (fun t => (t.aout, t.wtrace)) =
      some (0xA1, [⟨0, 0, .alternate, 0, true⟩]) := by decide

/-- V41-6. -/
theorem test_deassertAN :
    look (exec .deassertAN { p1 with aout := 0xA1 }) (fun t => (t.aout, t.wtrace)) =
      some (0xA0, [⟨0, 0, .alternate, 0, false⟩]) := by decide

/-- V41-7. -/
theorem test_assertAI :
    look (exec .assertAI { p1 with aout := 0xA1 }) (fun t => (t.aout, t.wtrace)) =
      some (0xA0, [⟨0, 0, .alternate, 0, false⟩]) := by decide

/-- V41-8. -/
theorem test_deassertAI :
    look (exec .deassertAI { p1 with aout := 0xA0 }) (fun t => (t.aout, t.wtrace)) =
      some (0xA1, [⟨0, 0, .alternate, 0, true⟩]) := by decide

/-! ### The Bit Timing Selector, the Cycle Clock Reader, the symbols -/

/-- V42-1 and V42-3. -/
theorem test_dur :
    look (exec (.dur false) p1) (fun t => t.portOut) = some 20 ∧
    look (exec (.dur true) { p1 with sh := 52, lh := 20 }) (fun t => t.portOut) = some 20 := by decide

/-- V42-5 to V42-8. -/
theorem test_currentBit :
    ([0x80, 0x40, 0x02, 0x01] : List Byte).map (fun m => State.currentBit { p1 with mask := m }) =
      [true, false, true, false] := by decide

/-- V43-1. -/
theorem test_now :
    look (exec .now { p1 with c0 := 0xFFFFFFF0, t := 0x20 }) (fun t => (t.portOut, t.t)) =
      some (0x10, 0x20) := by decide

/-- V43-2, V43-3 and the difference of V43-6. -/
theorem test_subMod :
    [subMod 32 0x40 0xFFFFFFF0, subMod 32 0 0xFFFFFFFF, subMod 32 5 5, subMod 32 4 5, subMod 32 0 80,
      subMod 16 0x15 0x10] = [0x50, 1, 0, 0xFFFFFFFF, 0xFFFFFFB0, 5] := by decide

/-- Slot 1 of example S1: a 0 starting at 80 ends at 100. -/
theorem test_sym0 :
    look (exec .sym0 { p1 with t := 80 }) (fun t => (t.t, t.wtrace)) =
      some (100, [⟨80, 80, .primary, 2, true⟩, ⟨100, 100, .primary, 2, false⟩]) := by decide

/-- Slot 2 of example S1: a 1 starting at 160 ends at 212. -/
theorem test_sym1 :
    look (exec .sym1 { p1 with t := 160 }) (fun t => (t.t, t.wtrace)) =
      some (212, [⟨160, 160, .primary, 2, true⟩, ⟨212, 212, .primary, 2, false⟩]) := by decide

/-- R13 and V30-5 to V30-7. -/
theorem test_pinMask :
    [0, 2, 15].map (fun i => State.pinMask { p1 with pin := i }) = [0x0001, 0x0004, 0x8000] := by decide

/-- A store keeps the canonical form, and the byte reads back (R178). -/
theorem test_memory :
    Memory.write [(1, 0xAA), (3, 0xBB)] 2 0xCC = [(1, 0xAA), (2, 0xCC), (3, 0xBB)] ∧
    Memory.read [(1, 0xAA), (3, 0xBB)] 2 = none := by decide

/-- R145: the block takes nothing from outside during a call, and between calls nothing but a command; a component
bench takes an operation of a component between calls only. -/
theorem test_only_commands_are_taken :
    stops (step { smallIn .ideal .hold with request := some (.clk 0) }) = some .noSuchInteraction ∧
    stops (step { smallIn .ideal .hold with request := some (.cmd 0) }) = some .commandDuringCall ∧
    stops (step { smallIn .ideal .done with request := some (.drv 1) }) = some .noSuchInteraction ∧
    goesOn (step { smallIn .ideal .done with request := some (.cmd 0) }) = true ∧
    stops (step (benched (.clk 0) .hold)) = some .noSuchInteraction ∧
    goesOn (step (benched (.clk 0) .done)) = true := by decide

/-- A word that is placed during a call ends it, so that the next step runs the word. -/
theorem test_withFetchWord_during_a_call :
    look (step ((smallIn .ideal .hold).withFetchWord 8 7)) (fun t => (t.st, t.request)) = some (.idle, none) := by
  decide

/-! ### Witnesses: the hypotheses of each statement can be met together -/

/-- The state in which the block has taken command `k`. -/
def start (k : Command) (s0 : State) : State := after s0 (exec k.instr s0)

theorem started_of {k : Command} {s0 : State} (h : invHolds s0 = true) (hq : s0.request = none)
    (hf : argumentsFit s0.cfg k.a0 k.a1 k.a2 k.a3 k.a4 k.a5 = true) (hg : goesOn (exec k.instr s0) = true) :
    Started k s0 (start k s0) := ⟨inv_of_holds h, hq, hf, eq_next_after hg⟩

/-- The state `n` steps later. -/
def runFor (n : Nat) (s : State) : State := after s (Sys2Proof.core.run n s)

theorem reaches_runFor {n : Nat} {s : State} (h : goesOn (Sys2Proof.core.run n s) = true) :
    Reaches s (runFor n s) := reaches_of_run (eq_next_after h)

theorem readable_of {m : Memory} {a0 a1 : Nat} (h : ∀ a < a1, a0 ≤ a → (Memory.read m a).isSome = true) :
    Memory.readable m a0 a1 := fun a h0 h1 => Option.isSome_iff_exists.mp (h a h1 h0)

/-- The same call with every timing argument 0, so that it is short. -/
def fastCommand : Command :=
  { alt := false, inv := true, a0 := 0x10, a1 := 0x11, a2 := 11, a3 := 0, a4 := 0, a5 := 0 }

/-- The small machine between calls. -/
def between (profile : Profile) : State := smallIn profile .idle

theorem started_small (alt : Bool) :
    Started (smallCommand alt) (between .ideal) (start (smallCommand alt) (between .ideal)) :=
  started_of (by decide) rfl (by cases alt <;> decide) (by cases alt <;> decide)

theorem started_bounded :
    Started (smallCommand false) (between (.bounded 1)) (start (smallCommand false) (between (.bounded 1))) :=
  started_of (by decide) rfl (by decide) (by decide)

theorem started_fast : Started fastCommand (between .ideal) (start fastCommand (between .ideal)) :=
  started_of (by decide) rfl (by decide) (by decide)

theorem witness_DecodeOfEncodeIsTheInstruction :
    (Instr.txan 0xFF 0 15 63 0 63).wellFormed { (small .ideal).cfg with nl := 16 } = true := by decide

theorem witness_EncodeOfDecodeIsTheWord : (decode (small .ideal).cfg .drv 7).toOption = some .assertAI := by decide

theorem witness_WordsThatEncodeNothingAreRejected :
    2 ^ Format.clk.width Config.default ≤ 1 ∧ 2 ^ Format.drv.width Config.default ≤ 8 := by decide

theorem witness_StepRunsTheDecodedInstruction :
    p1.request = none ∧
    ({ p1 with request := some (.drv 7) } : State).request = some (.drv 7) ∧
    (decode p1.cfg (Request.drv 7).format 7).toOption = some .assertAI ∧
    (decode p1.cfg (Request.clk 1).format 1).toOption = none ∧
    (benched (.drv 7) .hold).accepting = false ∧ (benched (.drv 7) .done).accepting = true ∧
    (benched (.drv 7) .done).cfg.bench = true ∧ p1.cfg.bench = false ∧
    (Request.drv 7).format ≠ .cmd ∧ (Request.cmd 0).format = .cmd := by decide

/-- Every loop state, each of the two tests passing and failing, each way out of `ADVANCE`, and every kind of
issued operation. -/
def stepStates : List State :=
  [smallIn .ideal .idle, smallIn .ideal .done, smallIn .ideal .awaitSlot,
    { smallIn .ideal .awaitSlot with tprev := 60, repoll := true }, smallIn .ideal .assert,
    { smallIn .ideal .hold with lh := 0 }, smallIn (.bounded 1) .hold, smallIn .ideal .deassert,
    smallIn .ideal .advance, { smallIn .ideal .advance with mask := 1 },
    { smallIn .ideal .advance with mask := 1, ptr := 0x11, cur := 0x0F },
    { smallIn .ideal .assert with alt := true, inv := true },
    { smallIn .ideal .deassert with alt := true, inv := true },
    { smallIn .ideal .done with request := some (.cmd (encode (small .ideal).cfg (smallCommand true).instr).2) },
    benched (.drv 6) .done, benched (.dur 1) .idle, benched (.clk 0) .done, benched (.sym 1) .idle]

/-- For `EveryStepKeepsTheStateWellFormed`, `LoopTransitionsAreThoseOfTheTable`, `NoOtherLineIsDisturbed`,
`LatchesAreFixedDuringACall`, `TraceAccountsForEveryGpioWrite`, `NoOperationWritesMemory` and
`TimePassesOnlyAtSamplesAndNeverRunsBack`: well-formed states of every kind that step. -/
theorem witness_steps : (stepStates.all fun s => invHolds s && goesOn (step s)) = true := by decide

theorem witness_CommandOnNonEmptyBufferStartsTheCall :
    (between .ideal).Inv ∧ (smallCommand true).fits (between .ideal).cfg ∧
    (smallCommand false).defined (between .ideal).cfg ∧ (smallCommand false).a0 < (smallCommand false).a1 ∧
    Memory.read (between .ideal).mem (smallCommand false).a0 = some 0xF0 :=
  ⟨inv_of_holds (by decide), (by decide : argumentsFit _ _ _ _ _ _ _ = true), ⟨by decide, by decide⟩, by decide,
    by decide⟩

theorem witness_CommandOnEmptyBufferIsDoneAtOnce :
    (smallIn .general .done).Inv ∧ ({ smallCommand true with a1 := 0x10 } : Command).fits (small .general).cfg ∧
    ({ smallCommand true with a1 := 0x10 } : Command).defined (small .general).cfg :=
  ⟨inv_of_holds (by decide), (by decide : argumentsFit _ _ _ _ _ _ _ = true), by decide, by decide⟩

/-- The four clauses, at their boundaries: a running call; an end one before the start; line 12 of 12; a first byte
just past the memory. -/
theorem witness_CommandsWithoutMeaningAreStopped :
    (smallIn .ideal .assert).running ∧ ¬ (between .ideal).running ∧
    ({ smallCommand false with a1 := 0x0F } : Command).fits (between .ideal).cfg ∧
    ({ smallCommand false with a1 := 0x0F } : Command).a1 < 0x10 ∧
    ({ smallCommand false with a2 := 12 } : Command).fits (between .ideal).cfg ∧
    (between .ideal).cfg.nl ≤ ({ smallCommand false with a2 := 12 } : Command).a2 ∧
    ({ smallCommand false with a0 := 0x12, a1 := 0x13 } : Command).fits (between .ideal).cfg ∧
    ({ smallCommand false with a0 := 0x12, a1 := 0x13 } : Command).defined (between .ideal).cfg ∧
    Memory.read (between .ideal).mem 0x12 = none :=
  ⟨⟨by decide, by decide⟩, fun h => h.1 rfl, (by decide : argumentsFit _ _ _ _ _ _ _ = true), by decide,
    (by decide : argumentsFit _ _ _ _ _ _ _ = true), by decide, (by decide : argumentsFit _ _ _ _ _ _ _ = true),
    ⟨by decide, by decide⟩, by decide⟩

theorem witness_AlternateVariantsIgnoreTheLineIndex :
    goesOn (exec (.txan 0x10 0x11 15 1 2 4) (between .ideal)) = true ∧
    goesOn (exec (.txai 0x10 0x11 15 1 2 4) (between .ideal)) = true := by decide

theorem witness_NoValueCarriesFromOneCallToTheNext :
    ¬ (between .ideal).running ∧ ¬ ({ smallIn .ideal .done with sh := 9, tprev := 3, mask := 1 } : State).running :=
  ⟨fun h => h.1 rfl, fun h => h.2 rfl⟩

theorem witness_IdleAndDoneTakeTheHostsCommand :
    (decode (small .ideal).cfg .cmd (encode (small .ideal).cfg (smallCommand false).instr).2).toOption =
      some (.txpi 0x10 0x11 5 1 2 4) := by decide

/-- The small machine with a command issued. -/
def commanded : State :=
  { between .ideal with request := some (.cmd (encode (small .ideal).cfg (smallCommand false).instr).2) }

theorem witness_IdleAndDoneStartTheIssuedCommand :
    commanded.Inv ∧ (smallCommand false).fits commanded.cfg ∧ (smallCommand false).defined commanded.cfg ∧
    look (exec .idle commanded) (·.st) = some .awaitSlot ∧ look (step commanded) (·.cur) = some 0xF0 :=
  ⟨inv_of_holds (by decide), (by decide : argumentsFit _ _ _ _ _ _ _ = true), ⟨by decide, by decide⟩, by decide,
    by decide⟩

/-- A first poll that passes, and a re-poll that fails by one tick less than the period. -/
theorem witness_AwaitSlotTakesOneSampleAndTestsThePeriod :
    (smallIn .ideal .awaitSlot).Inv ∧ look (exec .awaitSlot (smallIn .ideal .awaitSlot)) (·.st) = some .assert ∧
    ({ smallIn .ideal .awaitSlot with tprev := 61, repoll := true } : State).Inv ∧
    look (exec .awaitSlot { smallIn .ideal .awaitSlot with tprev := 61, repoll := true }) (·.st) = some .awaitSlot :=
  ⟨inv_of_holds (by decide), by decide, inv_of_holds (by decide), by decide⟩

/-- A re-poll that passes exactly, and one that fails by one tick. -/
theorem witness_HoldTakesOneSampleAndTestsTheDuration :
    ({ smallIn .ideal .hold with tstart := 62, repoll := true } : State).Inv ∧
    look (exec .hold { smallIn .ideal .hold with tstart := 62, repoll := true }) (·.st) = some .deassert ∧
    ({ smallIn .ideal .hold with repoll := true } : State).Inv ∧
    look (exec .hold { smallIn .ideal .hold with repoll := true }) (·.st) = some .hold :=
  ⟨inv_of_holds (by decide), by decide, inv_of_holds (by decide), by decide⟩

/-- The four clauses: mask 2, the last byte, a byte that follows, and a byte that cannot be read. -/
theorem witness_AdvanceMovesToTheNextBitByteOrEnd :
    ({ smallIn .ideal .advance with mask := 2 } : State).Inv ∧ (2 : Byte) >>> 1 ≠ 0 ∧ (1 : Byte) >>> 1 = 0 ∧
    ({ smallIn .ideal .advance with mask := 1, ptr := 0x11, cur := 0x0F } : State).Inv ∧
    0x11 + 1 = (small .ideal).endAddr ∧
    ({ smallIn .ideal .advance with mask := 1 } : State).Inv ∧ 0x10 + 1 ≠ (small .ideal).endAddr ∧
    Memory.read (small .ideal).mem 0x11 = some 0x0F ∧
    ({ smallIn .ideal .advance with mask := 1, mem := [(0x10, 0xF0)] } : State).Inv ∧
    Memory.read [(0x10, 0xF0)] 0x11 = none :=
  ⟨inv_of_holds (by decide), by decide, by decide, inv_of_holds (by decide), by decide, inv_of_holds (by decide),
    by decide, by decide, inv_of_holds (by decide), by decide⟩

theorem witness_CurrentBitIsTheBitTheMaskSelects :
    (small .ideal).mask = 1#8 <<< 7 ∧ ({ small .ideal with mask := 1 } : State).mask = 1#8 <<< 0 := by decide

/-- A line that exists, the last one, and, between calls, a `PIN` past the last line. -/
theorem witness_MicroOperationsDriveOneLine :
    (smallIn .ideal .assert).Inv ∧ ({ smallIn .ideal .assert with pin := 11 } : State).Inv ∧
    ({ smallIn .ideal .idle with pin := 12 } : State).Inv ∧ ({ smallIn .ideal .assert with alt := true } : State).Inv :=
  ⟨inv_of_holds (by decide), inv_of_holds (by decide), inv_of_holds (by decide), inv_of_holds (by decide)⟩

/-- First polls and re-polls, the priming sample, the three profiles: for `NowReturnsTheCounterAfterAGap`,
`GapsFollowTheProfile` and `EveryGapFromTheLowerBoundCanBeDrawn`. -/
theorem witness_samplesAndTheirProfiles :
    ({ smallIn .general .awaitSlot with repoll := true } : State).Inv ∧ (smallIn .general .awaitSlot).Inv ∧
    goesOn (exec .now (smallIn (.bounded 1) .hold)) = true ∧
    goesOn (exec .now { smallIn .ideal .hold with repoll := true }) = true ∧
    goesOn (exec .awaitSlot { smallIn .ideal .awaitSlot with repoll := true }) = true ∧
    goesOn (exec .hold (smallIn (.bounded 1) .hold)) = true ∧
    goesOn (exec (smallCommand true).instr (between (.bounded 1))) = true ∧
    (smallIn .general .hold).cfg.profile = .general ∧ (smallIn (.bounded 1) .hold).cfg.legal = true :=
  ⟨inv_of_holds (by decide), inv_of_holds (by decide), by decide, by decide, by decide, by decide, by decide, rfl,
    by decide⟩

/-- One tick below a wrap, and exactly one wrap. -/
theorem witness_ElapsedTimeIsExactBelowOneWrap :
    5 ≤ 5 + 63 ∧ subMod 6 ((62 + 68) % 2 ^ 6) ((62 + 5) % 2 ^ 6) = 63 ∧
    subMod 6 ((62 + 69) % 2 ^ 6) ((62 + 5) % 2 ^ 6) = 0 := by
  decide

theorem witness_SymbolsAreAssertedForTheirDuration :
    (smallIn .ideal .idle).Inv ∧ (smallIn (.bounded 3) .assert).Inv ∧ 1 ≤ (small .ideal).sh :=
  ⟨inv_of_holds (by decide), inv_of_holds (by decide), by decide⟩

theorem witness_LoopSendsTheSymbolOfTheCurrentBit :
    (smallIn .ideal .assert).Inv ∧ (smallIn .ideal .assert).request = none ∧
    (smallIn .ideal .assert).tstart = (smallIn .ideal .assert).cc ∧
    goesOn (exec (Instr.symbol (smallIn .ideal .assert).currentBit) (smallIn .ideal .assert)) = true :=
  ⟨inv_of_holds (by decide), rfl, by decide, by decide⟩

/-- The line is asserted in `DEASSERT` and de-asserted in `ADVANCE`; `ASSERT` with the line at the wrong level; an
inverted call on an idle line that is high. -/
theorem witness_LineIsAssertedExactlyInHoldAndDeassert :
    (smallIn .ideal .advance).Inv ∧ (smallIn .ideal .advance).line = (smallIn .ideal .advance).expectedLine ∧
    ({ smallIn .ideal .deassert with pout := 0x20 } : State).Inv ∧
    ({ smallIn .ideal .deassert with pout := 0x20 } : State).line =
      ({ smallIn .ideal .deassert with pout := 0x20 } : State).expectedLine ∧
    ({ smallIn .ideal .assert with pout := 0x20 } : State).Inv ∧
    goesOn (step { smallIn .ideal .assert with pout := 0x20 }) = true ∧
    (smallCommand false).fits (between .ideal).cfg ∧
    goesOn (exec (smallCommand false).instr { between .ideal with pout := 0x20 }) = true ∧
    Nat.testBit 0x20 (smallCommand false).a2 = (smallCommand false).inv :=
  ⟨inv_of_holds (by decide), by decide, inv_of_holds (by decide), by decide, inv_of_holds (by decide), by decide,
    (by decide : argumentsFit _ _ _ _ _ _ _ = true), by decide, by decide⟩

/-- Between calls on the block: an operation of a component issued, a command issued, nothing issued; and a call that
steps. -/
theorem witness_TheCommandIsTheOnlyInteraction :
    (small .ideal).cfg.bench = false ∧ (Request.drv 1).format ≠ .cmd ∧
    goesOn (step { smallIn .ideal .done with request := some (.cmd 0) }) = true ∧
    goesOn (step (smallIn .ideal .done)) = true ∧ goesOn (step (smallIn .ideal .hold)) = true := by decide

/-- A command and a component operation issued during a call, and a call that steps by itself. -/
theorem witness_NothingIsTakenFromOutsideDuringACall :
    (smallIn .ideal .hold).running ∧ goesOn (step (smallIn .ideal .hold)) = true ∧
    (decode (small .ideal).cfg .cmd 0).toOption = some (.txpn 0 0 0 0 0 0) ∧
    ({ smallIn .ideal .hold with request := some (.cmd 0) } : State).running ∧
    ({ smallIn .ideal .awaitSlot with request := some (.sym 0) } : State).running :=
  ⟨⟨by decide, by decide⟩, by decide, by decide, ⟨by decide, by decide⟩, by decide, by decide⟩

theorem witness_OnlyAnUnreadableByteStopsARunningCall :
    ({ smallIn .ideal .advance with mask := 1, mem := [(0x10, 0xF0)] } : State).Inv ∧
    step { smallIn .ideal .advance with mask := 1, mem := [(0x10, 0xF0)] } = .refused .stuckRead ∧
    ({ commanded with mem := [] } : State).Inv ∧ step { commanded with mem := [] } = .refused .stuckRead ∧
    (smallIn .ideal .advance).Inv ∧ Memory.readable (small .ideal).mem (small .ideal).ptr (small .ideal).endAddr :=
  ⟨inv_of_holds (by decide), eq_refused_of_stops (by decide), inv_of_holds (by decide),
    eq_refused_of_stops (by decide), inv_of_holds (by decide), readable_of (by decide)⟩

/-- Another memory that agrees on the byte still to be read and on nothing else. -/
theorem witness_NoByteOutsideTheRestOfTheBufferIsRead :
    ({ smallIn .ideal .advance with mask := 1 } : State).Inv ∧
    ({ smallIn .ideal .advance with mask := 1 } : State).running ∧
    goesOn (step { smallIn .ideal .advance with mask := 1 }) = true ∧
    ∀ a < (small .ideal).endAddr, (small .ideal).ptr < a →
      Memory.read [(0x11, 0x0F), (0x50, 1)] a = Memory.read (small .ideal).mem a :=
  ⟨inv_of_holds (by decide), ⟨by decide, by decide⟩, by decide, by decide⟩

theorem witness_FirstSlotIsNotWaitedFor :
    Started (smallCommand false) (between .ideal) (start (smallCommand false) (between .ideal)) ∧
    (smallCommand false).a0 < (smallCommand false).a1 ∧
    look (step (start (smallCommand false) (between .ideal)))
      (fun t => decide (t.t - (start (smallCommand false) (between .ideal)).t + 4 < 2 ^ 6)) = some true :=
  ⟨started_small false, by decide, by decide⟩

/-- For `CallMakesExactlyEightPulsePairsPerByte` and `CallEndsRightAfterItsLastDeassert`: a call that reaches
`DONE`. -/
theorem witness_callReachesDone :
    Started fastCommand (between .ideal) (start fastCommand (between .ideal)) ∧ fastCommand.a0 < fastCommand.a1 ∧
    Reaches (start fastCommand (between .ideal)) (runFor 40 (start fastCommand (between .ideal))) ∧
    (runFor 40 (start fastCommand (between .ideal))).st = .done :=
  ⟨started_fast, by decide, reaches_runFor (by decide), by decide⟩

/-- For `PulsesAreNeverShortAndSlotsNeverEarly` and `StallBoundLimitsWidthsAndSpacings`: three writes of a call under
a stall bound, and every bound on the arguments. -/
theorem witness_callUnderAStallBound :
    Started (smallCommand false) (between (.bounded 1)) (start (smallCommand false) (between (.bounded 1))) ∧
    Reaches (start (smallCommand false) (between (.bounded 1)))
      (runFor 11 (start (smallCommand false) (between (.bounded 1)))) ∧
    (runFor 11 (start (smallCommand false) (between (.bounded 1)))).wtrace.length = 3 ∧
    1 ≤ (smallCommand false).a3 ∧ 1 ≤ (smallCommand false).a4 ∧ 1 ≤ (smallCommand false).a5 ∧
    (smallCommand false).a5 + 2 * 1 < 2 ^ 6 ∧ (smallCommand false).a4 + 1 ≤ (smallCommand false).a5 :=
  ⟨started_bounded, reaches_runFor (by decide), by decide, by decide, by decide, by decide, by decide, by decide⟩

/-- For `IdealCallMakesExactlyTheIdealWaveform` and `IdealCallUnderTheInvariantKeepsThePeriodExactly`. -/
theorem witness_idealCall :
    Started (smallCommand true) (between .ideal) (start (smallCommand true) (between .ideal)) ∧
    (between .ideal).cfg.profile = .ideal ∧ (smallCommand true).a0 < (smallCommand true).a1 ∧
    Memory.readable (between .ideal).mem (smallCommand true).a0 (smallCommand true).a1 ∧
    (smallCommand true).timingInvariant :=
  ⟨started_small true, rfl, by decide, readable_of (by decide), by decide, by decide, by decide, by decide⟩

theorem complementary_flip (s : State) : Complementary s
    { s with inv := !s.inv, wtrace := s.wtrace.map TraceEntry.complement } :=
  ⟨rfl, fun _ _ => rfl, fun _ _ => rfl⟩

theorem witness_ComplementaryBlocksStayComplementary :
    (smallIn .ideal .assert).Inv ∧
    ({ smallIn .ideal .assert with inv := true, wtrace := (small .ideal).wtrace.map TraceEntry.complement } : State).Inv ∧
    Complementary (smallIn .ideal .assert)
      { smallIn .ideal .assert with inv := true, wtrace := (small .ideal).wtrace.map TraceEntry.complement } ∧
    goesOn (step (smallIn .ideal .assert)) = true :=
  ⟨inv_of_holds (by decide), inv_of_holds (by decide), complementary_flip _, by decide⟩

theorem witness_InvertedCallWritesTheComplement :
    Started (smallCommand false) (between .ideal) (start (smallCommand false) (between .ideal)) ∧
    Started { smallCommand false with inv := !(smallCommand false).inv } (between .ideal)
      (start { smallCommand false with inv := !(smallCommand false).inv } (between .ideal)) ∧
    goesOn (Sys2Proof.core.run 5 (start (smallCommand false) (between .ideal))) = true :=
  ⟨started_small false, started_of (by decide) rfl (by decide) (by decide), by decide⟩

/-- For `WaitsEndUnderAStallBound` and `RunningCallReachesDoneUnderAStallBound`: both waits, with the period one
below the largest that the bound 3 allows in a 6-bit counter. -/
theorem witness_waitsUnderAStallBound :
    ({ smallIn (.bounded 3) .hold with per := 60, repoll := true } : State).Inv ∧
    ({ smallIn (.bounded 3) .awaitSlot with per := 60, repoll := true } : State).Inv ∧
    ({ smallIn (.bounded 3) .awaitSlot with per := 60, repoll := true } : State).running ∧ 60 + 3 < 2 ^ 6 ∧
    (smallIn (.bounded 3) .hold).currentDuration + 3 < 2 ^ 6 ∧
    Memory.readable (small (.bounded 3)).mem (small (.bounded 3)).ptr (small (.bounded 3)).endAddr :=
  ⟨inv_of_holds (by decide), inv_of_holds (by decide), ⟨by decide, by decide⟩, by decide, by decide,
    readable_of (by decide)⟩

end Sys2Proof.Tests
end

/-! ### The invariant is kept by every step (R10 to R31, R49, R53) -/

namespace Sys2Proof.Machine

variable {s s' : State}

/-- Only a failed test of a wait state leaves the re-poll mark (log 7). -/
theorem repoll_eq_false_of_inv (h : s.Inv) (ha : s.st ≠ .awaitSlot) (hh : s.st ≠ .hold) : s.repoll = false := by
  by_contra hr
  obtain hst | hst := h.repoll_waits (by simpa using hr)
  · exact ha hst
  · exact hh hst

/-- A call that goes on in another loop state keeps its byte, its place in the buffer and its line. -/
theorem inv_enter (h : s.Inv) (hr : s.running) (hp : s.repoll = false) (x : LoopState) : (enter x s).Inv :=
  { h with
    in_buffer := fun _ => h.in_buffer hr
    current_byte := fun _ => h.current_byte hr
    line_exists := fun _ => h.line_exists hr
    repoll_waits := fun hp' => by simp [hp] at hp' }

theorem inv_enter_drive (h : s.Inv) (hr : s.running) (hp : s.repoll = false) (c : Bool) (x : LoopState) :
    (enter x (drive c s)).Inv :=
  inv_enter (inv_driverAction h ..) (by simpa [State.running] using hr) (by simpa using hp) x

theorem inv_pollAgain (h : s.Inv) (hr : s.running) {x : LoopState} (hx : x = .awaitSlot ∨ x = .hold) :
    (pollAgain x s).Inv :=
  { h with
    in_buffer := fun _ => h.in_buffer hr
    current_byte := fun _ => h.current_byte hr
    line_exists := fun _ => h.line_exists hr
    repoll_waits := fun _ => hx }

theorem inv_startSlot (h : s.Inv) (hr : s.running) (hp : s.repoll = false) : (startSlot s).Inv :=
  { inv_enter h hr hp .assert with tstart_fits := cc_lt }

/-- While a bit of the byte is left, the shifted mask is one-hot again (R22). -/
theorem inv_shiftMask (h : s.Inv) (hm : s.mask >>> 1 ≠ 0) : (shiftMask s).Inv :=
  { h with
    tprev_fits := h.tstart_fits
    mask_oneHot := mask_shift h.mask_oneHot hm }

/-- Past the last byte no call runs, so nothing is asked of the byte or the buffer. -/
theorem inv_callEnds (h : s.Inv) (hp : s.repoll = false) : (enter .done (nextAddress (shiftMask s))).Inv :=
  { h with
    ptr_fits := incMod_lt ..
    tprev_fits := h.tstart_fits
    mask_oneHot := ⟨7, by decide, rfl⟩
    in_buffer := fun hr => absurd rfl hr.2
    current_byte := fun hr => absurd rfl hr.2
    line_exists := fun hr => absurd rfl hr.2
    repoll_waits := fun hp' => by simp [hp] at hp' }

/-- The pointer moves to the next byte of the buffer, which is not its end (R53), and the byte becomes current. -/
theorem inv_nextByte (h : s.Inv) (hr : s.running) (he : incMod s.cfg.aw s.ptr ≠ s.endAddr) {b : Byte}
    (hb : s.mem.read (incMod s.cfg.aw s.ptr) = some b) : (loadByte b (nextAddress (shiftMask s))).Inv :=
  have hlt : incMod s.cfg.aw s.ptr < s.endAddr := by
    have hptr := h.in_buffer hr
    rw [incMod_of_lt hptr h.endAddr_fits] at he ⊢
    omega
  { h with
    ptr_fits := incMod_lt ..
    tprev_fits := h.tstart_fits
    mask_oneHot := ⟨7, by decide, rfl⟩
    in_buffer := fun _ => hlt
    current_byte := fun _ => hb
    line_exists := fun _ => h.line_exists hr
    repoll_waits := fun _ => .inl rfl }

theorem running_of_st {x : LoopState} (hst : s.st = x) (hi : x ≠ .idle) (hd : x ≠ .done) : s.running := by
  subst hst
  exact ⟨hi, hd⟩

/-- Every row of R89's table keeps the state well formed. -/
theorem inv_loopStep (h : s.Inv) (hs : LoopStep s s') : s'.Inv := by
  cases hs with
  | rest => exact h
  | slotStarts hst =>
    exact inv_startSlot (inv_sample h) (running_of_st hst (by decide) (by decide)) rfl
  | slotNotDue hst =>
    exact inv_pollAgain (inv_sample h) (running_of_st hst (by decide) (by decide)) (.inl rfl)
  | asserts hst =>
    exact inv_enter_drive h (running_of_st hst (by decide) (by decide))
      (repoll_eq_false_of_inv h (by simp [hst]) (by simp [hst])) ..
  | holdEnds hst =>
    exact inv_enter (inv_sample h) (running_of_st hst (by decide) (by decide)) rfl _
  | holdGoesOn hst =>
    exact inv_pollAgain (inv_sample h) (running_of_st hst (by decide) (by decide)) (.inr rfl)
  | deasserts hst =>
    exact inv_enter_drive h (running_of_st hst (by decide) (by decide))
      (repoll_eq_false_of_inv h (by simp [hst]) (by simp [hst])) ..
  | nextBit hst hm =>
    exact inv_enter (inv_shiftMask h hm) (running_of_st hst (by decide) (by decide))
      (repoll_eq_false_of_inv (s := s) h (by simp [hst]) (by simp [hst])) _
  | callEnds hst => exact inv_callEnds h (repoll_eq_false_of_inv h (by simp [hst]) (by simp [hst]))
  | nextByte hst _ he _ hb => exact inv_nextByte h (running_of_st hst (by decide) (by decide)) he hb

/-- Whatever is taken from outside keeps the state well formed. -/
theorem inv_issuedStep {r : Request} (h : s.Inv) (hs : IssuedStep s r s') : s'.Inv := by
  cases hs with
  | command _ _ ha => exact inv_accept (inv_taken h) ha
  | driver => exact inv_driverAction (inv_taken h) ..
  | duration => exact inv_returnValue (inv_taken h) _
  | now => exact inv_returnValue (inv_sample (inv_taken h)) _
  | symbol => exact inv_sendSymbol (inv_taken h) _

theorem inv_step (h : s.Inv) (hs : step s = .next s') : s'.Inv := by
  cases hq : s.request with
  | none => exact inv_loopStep h (step_quiet hq hs)
  | some r => exact inv_issuedStep h (step_issued hq hs)

/-- Settles O7: a step is a row of the loop's table or takes what is issued, and either keeps the invariant. -/
theorem everyStepKeepsTheStateWellFormed : Obligations.EveryStepKeepsTheStateWellFormed := by
  unfold Obligations.EveryStepKeepsTheStateWellFormed
  exact fun _ _ => inv_step

end Sys2Proof.Machine

/-! ### The mask selects a bit of the byte (R22, R116) -/

namespace Sys2Proof.Machine

/-- Settles O21: `CUR AND (1 << i)` is `1 << i` or zero, as bit `i` of `CUR` is set or clear. -/
theorem currentBitIsTheBitTheMaskSelects : Obligations.CurrentBitIsTheBitTheMaskSelects := by
  unfold Obligations.CurrentBitIsTheBitTheMaskSelects
  intro s i hi hm
  have hbit : (1#8 <<< i).getLsbD i = true := by simp [hi]
  have hne : 1#8 <<< i ≠ 0#8 := fun h0 => by simp [h0] at hbit
  rw [State.currentBit, hm, ← BitVec.twoPow_eq, BitVec.and_twoPow, BitVec.twoPow_eq]
  cases s.cur.getLsbD i with
  | true => simpa using hne
  | false => simp

end Sys2Proof.Machine

/-! ### Time passes only at counter samples (R24, R121, R123) -/

namespace Sys2Proof.Machine

variable {s t : State}

/-- The counter's origin and the parameters stay, and time does not run back. -/
def ClockAdvances (s t : State) : Prop := t.c0 = s.c0 ∧ t.cfg = s.cfg ∧ s.t ≤ t.t

/-- No sample is taken: no time passes and no draw is used up. -/
def ClockStill (s t : State) : Prop := t.c0 = s.c0 ∧ t.cfg = s.cfg ∧ t.t = s.t ∧ t.stalls = s.stalls

theorem ClockStill.advances (h : ClockStill s t) : ClockAdvances s t := by
  obtain ⟨hc0, hcfg, ht, -⟩ := h
  exact ⟨hc0, hcfg, ht.ge⟩

/-- The counter has counted the ticks that passed (R30). -/
theorem ClockAdvances.cc_eq (h : ClockAdvances s t) : t.cc = (s.cc + (t.t - s.t)) % 2 ^ s.cfg.ccw := by
  obtain ⟨hc0, hcfg, ht⟩ := h
  have hsum : s.c0 + s.t + (t.t - s.t) = s.c0 + t.t := by omega
  simp [State.cc, hc0, hcfg, hsum]

theorem clockStill_driverAction (a i c : Bool) : ClockStill s (driverAction a i c s) := by
  simp [ClockStill]

theorem clockAdvances_sendSymbol (bit : Bool) : ClockAdvances s (sendSymbol bit s) := by
  simp [ClockAdvances, sendSymbol, Nat.add_assoc]

theorem clockAdvances_accept {k : Command} (h : accept k s = .next t) : ClockAdvances s t := by
  obtain ⟨hcfg, -, hc0, -, -, -, -, ht, -⟩ := accept_frame h
  exact ⟨hc0, hcfg, ht⟩

/-- Between calls the block takes the issued command or does nothing (R80, R86). -/
theorem serveHost_next (h : serveHost s = .next t) :
    t = s ∨ ∃ w, accept (commandOfWord s.cfg w) (taken s) = .next t := by
  unfold serveHost at h
  split at h
  · next w _ =>
    split at h
    · cases h
    · exact .inr ⟨w, h⟩
  · exact .inl (by simpa using h.symm)

theorem clockAdvances_serveHost (h : serveHost s = .next t) : ClockAdvances s t := by
  obtain rfl | ⟨w, ha⟩ := serveHost_next h
  · exact ⟨rfl, rfl, le_rfl⟩
  · simpa [ClockAdvances] using clockAdvances_accept ha

/-- `ADVANCE` takes no sample, whether a bit, a byte or nothing is left (R85). -/
theorem clockStill_execAdvance (h : execAdvance s = .next t) : ClockStill s t := by
  unfold execAdvance nextBit nextByte at h
  split at h
  · split at h
    · cases h; simp [ClockStill]
    · obtain ⟨b, -, rfl⟩ := fetchByte_next h
      simp [ClockStill]
  · cases h; simp [ClockStill]

theorem clockAdvances_execAwaitSlot (h : execAwaitSlot s = .next t) : ClockAdvances s t := by
  obtain ⟨-, rfl⟩ | ⟨-, rfl⟩ := execAwaitSlot_next h <;> simp [ClockAdvances]

theorem clockAdvances_execHold (h : execHold s = .next t) : ClockAdvances s t := by
  obtain ⟨-, rfl⟩ | ⟨-, rfl⟩ := execHold_next h <;> simp [ClockAdvances]

/-- The operations that take no counter sample and start no call. -/
def unsampledInstrs : List Instr :=
  [.assert, .deassert, .advance, .assertPN, .deassertPN, .assertPI, .deassertPI, .assertAN, .deassertAN,
    .assertAI, .deassertAI, .dur true, .dur false]

theorem clockStill_exec {i : Instr} (hi : i ∈ unsampledInstrs) (h : exec i s = .next t) : ClockStill s t := by
  have hdriver (a i c : Bool) (h : exec (Instr.driver a i c) s = .next t) : ClockStill s t := by
    rw [exec_driver] at h
    cases h
    exact clockStill_driverAction ..
  cases i with
  | assert | deassert | dur => cases h; simp [ClockStill]
  | advance => exact clockStill_execAdvance h
  | assertPN => exact hdriver false false true h
  | deassertPN => exact hdriver false false false h
  | assertPI => exact hdriver false true true h
  | deassertPI => exact hdriver false true false h
  | assertAN => exact hdriver true false true h
  | deassertAN => exact hdriver true false false h
  | assertAI => exact hdriver true true true h
  | deassertAI => exact hdriver true true false h
  | _ => simp [unsampledInstrs] at hi

theorem clockAdvances_exec {i : Instr} (h : exec i s = .next t) : ClockAdvances s t := by
  cases i with
  | txpn | txpi | txan | txai => exact clockAdvances_accept h
  | idle | done => exact clockAdvances_serveHost h
  | awaitSlot => exact clockAdvances_execAwaitSlot h
  | hold => exact clockAdvances_execHold h
  | now => cases h; simp [ClockAdvances]
  | sym0 | sym1 => cases h; exact clockAdvances_sendSymbol _
  | dur bit => cases bit <;> exact (clockStill_exec (by simp [unsampledInstrs]) h).advances
  | _ => exact (clockStill_exec (by simp [unsampledInstrs]) h).advances

/-- Settles O33: every operation lets the clock advance, and those without a sample leave it still. -/
theorem timePassesOnlyAtSamplesAndNeverRunsBack : Obligations.TimePassesOnlyAtSamplesAndNeverRunsBack := by
  unfold Obligations.TimePassesOnlyAtSamplesAndNeverRunsBack
  intro i s t h
  have hadv := clockAdvances_exec h
  have hcc := hadv.cc_eq
  obtain ⟨hc0, hcfg, ht⟩ := hadv
  refine ⟨hc0, hcfg, ht, hcc, fun hi => ?_⟩
  obtain ⟨-, -, hstill⟩ := clockStill_exec hi h
  exact hstill

end Sys2Proof.Machine

/-! ### The operand latches are fixed during a call (R10, R117, R131) -/

namespace Sys2Proof.Machine

variable {s t : State}

/-- While a call runs, a step that happens takes nothing from outside: it is a row of the loop's table. -/
theorem loopStep_of_running (hr : s.running) (h : step s = .next t) : LoopStep s t := by
  cases hq : s.request with
  | none => exact step_quiet hq h
  | some r =>
    obtain hi | hd := accepting_iff.mp (step_issued_accepting hq h)
    · exact absurd hi hr.1
    · exact absurd hd hr.2

theorem loopStep_latches (h : LoopStep s t) :
    t.alt = s.alt ∧ t.inv = s.inv ∧ t.pin = s.pin ∧ t.endAddr = s.endAddr ∧
    t.sh = s.sh ∧ t.lh = s.lh ∧ t.per = s.per := by
  cases h <;> simp

/-- Only `ADVANCE` leaves the slot: every other row keeps the byte, the bit and the baseline. -/
theorem loopStep_slot (h : LoopStep s t) (hst : s.st ≠ .advance) :
    t.ptr = s.ptr ∧ t.mask = s.mask ∧ t.cur = s.cur ∧ t.tprev = s.tprev ∧
    t.currentDuration = s.currentDuration := by
  cases h with
  | nextBit ha | callEnds ha | nextByte ha => exact absurd ha hst
  | _ => simp

/-- Settles O35: a step of a running call is a row of the loop's table, and no row writes a latch. -/
theorem latchesAreFixedDuringACall : Obligations.LatchesAreFixedDuringACall := by
  unfold Obligations.LatchesAreFixedDuringACall
  intro s t hr h
  have hs := loopStep_of_running hr h
  obtain ⟨halt, hinv, hpin, hend, hsh, hlh, hper⟩ := loopStep_latches hs
  exact ⟨halt, hinv, hpin, hend, hsh, hlh, hper, loopStep_slot hs⟩

end Sys2Proof.Machine

/-! ### The trace accounts for the GPIO registers (R25, R26, R31) -/

namespace Sys2Proof.Machine

variable {s t u : State} {p : TraceEntry → Prop}

/-- From `s` to `t` only writes with the property `p` are made: the trace gains them, and the GPIO registers are what
they make of them. -/
def WritesOnly (p : TraceEntry → Prop) (s t : State) : Prop :=
  ∃ es : List TraceEntry, (∀ e ∈ es, p e) ∧ t.wtrace = s.wtrace ++ es ∧
    (t.pout, t.aout) = es.foldl (applyEntry s.cfg) (s.pout, s.aout)

/-- The entry is for the line of a bank that the block may drive: `PIN` of the primary bank (`a = false`) or `ABIT` of
the alternate register (R31). -/
def State.Drives (s : State) (a : Bool) (e : TraceEntry) : Prop :=
  e.port = bankOf a ∧ e.bit = if a then s.cfg.abit else s.pin

theorem writesOnly_of_same (hw : t.wtrace = s.wtrace) (hp : t.pout = s.pout) (ha : t.aout = s.aout) :
    WritesOnly p s t :=
  ⟨[], by simp, by simp [hw], by simp [hp, ha]⟩

theorem WritesOnly.trans (h : WritesOnly p s u) (h' : WritesOnly p u t) (hc : u.cfg = s.cfg) :
    WritesOnly p s t := by
  obtain ⟨es, hes, hw, hg⟩ := h
  obtain ⟨fs, hfs, hw', hg'⟩ := h'
  refine ⟨es ++ fs, ?_, ?_, ?_⟩
  · intro e he
    exact (List.mem_append.mp he).elim (hes e) (hfs e)
  · rw [hw', hw, List.append_assoc]
  · rw [hg', hg, hc, List.foldl_append]

/-- A micro-operation makes one write, to the line of its bank (R101 to R103, R112). -/
theorem writesOnly_driverAction (a i c : Bool) : WritesOnly (s.Drives a) s (driverAction a i c s) := by
  refine ⟨_, ?_, driverAction_wtrace .., ?_⟩
  · intro e he
    rw [List.mem_singleton.mp he]
    exact ⟨rfl, rfl⟩
  · rw [driverAction_pout, driverAction_aout]
    cases a <;> rfl

/-- `Drive` in a state with the parameters and the latches of `s` writes to the line of the call of `s`. -/
theorem writesOnly_drive (hc : u.cfg = s.cfg) (hp : u.pin = s.pin) (ha : u.alt = s.alt) (c : Bool) :
    WritesOnly (s.Drives s.alt) u (drive c u) := by
  have hd : u.Drives = s.Drives := by
    unfold State.Drives
    rw [hc, hp]
  rw [← hd, ← ha]
  exact writesOnly_driverAction ..

/-- A symbol makes two writes with time in between, both to the line of the call (R67). -/
theorem writesOnly_sendSymbol (bit : Bool) : WritesOnly (s.Drives s.alt) s (sendSymbol bit s) := by
  have hassert : WritesOnly (s.Drives s.alt) s (drive true s) := writesOnly_drive rfl rfl rfl true
  have helapse : WritesOnly (s.Drives s.alt) (drive true s) (elapse (s.duration bit) (drive true s)) :=
    writesOnly_of_same rfl rfl rfl
  have hdeassert : WritesOnly (s.Drives s.alt) (elapse (s.duration bit) (drive true s)) (sendSymbol bit s) :=
    writesOnly_drive (by simp) (by simp) (by simp) false
  exact (hassert.trans helapse (by simp)).trans hdeassert (by simp)

/-- A row of R89's table writes nothing, or drives the line of the call. -/
theorem writesOnly_loopStep (h : LoopStep s t) : WritesOnly (s.Drives s.alt) s t := by
  cases h with
  | asserts | deasserts => exact writesOnly_driverAction ..
  | _ => exact writesOnly_of_same rfl rfl rfl

/-- An operation of a component writes to the line of one bank at most. -/
theorem writesOnly_issuedStep {r : Request} (h : IssuedStep s r t) (hr : r.format ≠ .cmd) :
    ∃ a, WritesOnly (s.Drives a) s t := by
  cases h with
  | command => exact absurd rfl hr
  | driver _ a => exact ⟨a, writesOnly_driverAction (s := taken s) ..⟩
  | duration | now => exact ⟨false, writesOnly_of_same rfl rfl rfl⟩
  | symbol => exact ⟨s.alt, writesOnly_sendSymbol (s := taken s) _⟩

/-- A command writes no register and empties the trace (R80). -/
theorem issuedStep_command_gpio {w : Nat} (h : IssuedStep s (.cmd w) t) :
    t.wtrace = [] ∧ t.pout = s.pout ∧ t.aout = s.aout := by
  cases h with
  | command _ _ ha =>
    obtain ⟨-, -, -, hp, ha, -, -, -, hw⟩ := accept_frame ha
    exact ⟨hw, hp, ha⟩

/-- Settles O36: a command's step, and every other step by the writes it makes. -/
theorem traceAccountsForEveryGpioWrite : Obligations.TraceAccountsForEveryGpioWrite := by
  unfold Obligations.TraceAccountsForEveryGpioWrite
  intro s t h
  have hother {a : Bool} (hw : WritesOnly (s.Drives a) s t) : ∃ es : List TraceEntry,
      t.wtrace = s.wtrace ++ es ∧ (t.pout, t.aout) = es.foldl (applyEntry s.cfg) (s.pout, s.aout) := by
    obtain ⟨es, -, hes⟩ := hw
    exact ⟨es, hes⟩
  split
  · next w hq => exact issuedStep_command_gpio (step_issued hq h)
  · next hq =>
    cases hr : s.request with
    | none => exact hother (writesOnly_loopStep (step_quiet hr h))
    | some r =>
      have hcmd : r.format ≠ .cmd := by
        cases r with
        | cmd w => exact absurd hr (hq w)
        | _ => simp [Request.format]
      obtain ⟨a, hw⟩ := writesOnly_issuedStep (step_issued hr h) hcmd
      exact hother hw

end Sys2Proof.Machine

/-! ### No other line is disturbed (R25, R26) -/

namespace Sys2Proof.Machine

variable {s t : State} {a : Bool} {e : TraceEntry} {es : List TraceEntry} {r r' r'' : Nat × Nat}

/-- The registers `r` may become `r'` when only the line of the bank `a` is driven: no other bit differs. -/
structure OwnLineOnly (s : State) (a : Bool) (r r' : Nat × Nat) : Prop where
  primary : ∀ j, j ≠ s.pin → r'.1.testBit j = r.1.testBit j
  alternate : ∀ j, j ≠ s.cfg.abit → r'.2.testBit j = r.2.testBit j
  ofPrimary : a = false → r'.2 = r.2
  ofAlternate : a = true → r'.1 = r.1

/-- Both registers have their width (R25, R26). -/
def GpioFits (c : Config) (r : Nat × Nat) : Prop := r.1 < 2 ^ c.nl ∧ r.2 < 2 ^ c.aow

theorem OwnLineOnly.refl : OwnLineOnly s a r r := ⟨fun _ _ => rfl, fun _ _ => rfl, fun _ => rfl, fun _ => rfl⟩

theorem OwnLineOnly.trans (h : OwnLineOnly s a r r') (h' : OwnLineOnly s a r' r'') : OwnLineOnly s a r r'' where
  primary j hj := (h'.primary j hj).trans (h.primary j hj)
  alternate j hj := (h'.alternate j hj).trans (h.alternate j hj)
  ofPrimary ha := (h'.ofPrimary ha).trans (h.ofPrimary ha)
  ofAlternate ha := (h'.ofAlternate ha).trans (h.ofAlternate ha)

theorem gpioFits_applyEntry {c : Config} (h : GpioFits c r) : GpioFits c (applyEntry c r e) := by
  unfold applyEntry
  split
  · exact ⟨replaceBit_lt .., h.2⟩
  · exact ⟨h.1, replaceBit_lt ..⟩

theorem replaceBit_testBit_ne {w x i j : Nat} {l : Bool} (h : x < 2 ^ w) (hj : j ≠ i) :
    (replaceBit w x i l).testBit j = x.testBit j := by
  simp [replaceBit_testBit_of_lt h, hj]

theorem ownLineOnly_applyEntry (h : GpioFits s.cfg r) (he : s.Drives a e) :
    OwnLineOnly s a r (applyEntry s.cfg r e) := by
  obtain ⟨hport, hbit⟩ := he
  cases a with
  | false =>
    have hr : applyEntry s.cfg r e = (replaceBit s.cfg.nl r.1 s.pin e.level, r.2) := by
      simp [applyEntry, hport, hbit, bankOf]
    rw [hr]
    exact ⟨fun j hj => replaceBit_testBit_ne h.1 hj, fun _ _ => rfl, fun _ => rfl, nofun⟩
  | true =>
    have hr : applyEntry s.cfg r e = (r.1, replaceBit s.cfg.aow r.2 s.cfg.abit e.level) := by
      simp [applyEntry, hport, hbit, bankOf]
    rw [hr]
    exact ⟨fun _ _ => rfl, fun j hj => replaceBit_testBit_ne h.2 hj, nofun, fun _ => rfl⟩

theorem ownLineOnly_foldl (h : GpioFits s.cfg r) (hes : ∀ e ∈ es, s.Drives a e) :
    OwnLineOnly s a r (es.foldl (applyEntry s.cfg) r) := by
  induction es generalizing r with
  | nil => exact .refl
  | cons e es ih =>
    have hhead := ownLineOnly_applyEntry h (hes e (by simp))
    exact hhead.trans (ih (gpioFits_applyEntry h) fun f hf => hes f (by simp [hf]))

theorem ownLineOnly_of_writesOnly (h : s.Inv) (hw : WritesOnly (s.Drives a) s t) :
    OwnLineOnly s a (s.pout, s.aout) (t.pout, t.aout) := by
  obtain ⟨es, hes, -, hg⟩ := hw
  rw [hg]
  exact ownLineOnly_foldl ⟨h.pout_fits, h.aout_fits⟩ hes

/-- A step drives the line of one bank, of the bank `ALT` selects when nothing is issued. -/
theorem ownLineOnly_step (h : s.Inv) (hs : step s = .next t) :
    ∃ a, (s.request = none → a = s.alt) ∧ OwnLineOnly s a (s.pout, s.aout) (t.pout, t.aout) := by
  cases hq : s.request with
  | none => exact ⟨s.alt, fun _ => rfl, ownLineOnly_of_writesOnly h (writesOnly_loopStep (step_quiet hq hs))⟩
  | some r =>
    have hi := step_issued hq hs
    cases r with
    | cmd w =>
      obtain ⟨-, hp, ha⟩ := issuedStep_command_gpio hi
      rw [hp, ha]
      exact ⟨s.alt, nofun, .refl⟩
    | drv | dur | clk | sym =>
      obtain ⟨a, hw⟩ := writesOnly_issuedStep hi (by simp [Request.format])
      exact ⟨a, nofun, ownLineOnly_of_writesOnly h hw⟩

/-- Settles O34: a step changes no bit but the one of the line it drives. -/
theorem noOtherLineIsDisturbed : Obligations.NoOtherLineIsDisturbed := by
  unfold Obligations.NoOtherLineIsDisturbed
  intro s t h hs
  obtain ⟨a, ha, hown⟩ := ownLineOnly_step h hs
  exact ⟨hown.primary, hown.alternate, fun hq halt => hown.ofPrimary ((ha hq).trans halt),
    fun hq halt => hown.ofAlternate ((ha hq).trans halt)⟩

end Sys2Proof.Machine

/-! ### No operation writes memory (R41) -/

namespace Sys2Proof.Machine

variable {s t : State}

/-- A row of R89's table makes a byte current at most: it stores none. -/
theorem loopStep_mem (h : LoopStep s t) : t.mem = s.mem := by
  cases h <;> simp

/-- `ADVANCE` does not test `ST` again (log 25). -/
theorem execAdvance_enter (x : LoopState) : execAdvance (enter x s) = execAdvance s := rfl

theorem serveHost_mem (h : serveHost s = .next t) : t.mem = s.mem := by
  obtain rfl | ⟨w, ha⟩ := serveHost_next h
  · rfl
  · obtain ⟨-, hmem, -⟩ := accept_frame ha
    exact hmem

theorem exec_mem {i : Instr} (h : exec i s = .next t) : t.mem = s.mem := by
  cases i with
  | txpn | txpi | txan | txai =>
    obtain ⟨-, hmem, -⟩ := accept_frame h
    exact hmem
  | idle | done => exact serveHost_mem h
  | awaitSlot => obtain ⟨-, rfl⟩ | ⟨-, rfl⟩ := execAwaitSlot_next h <;> simp
  | hold => obtain ⟨-, rfl⟩ | ⟨-, rfl⟩ := execHold_next h <;> simp
  | advance =>
    have hrow : LoopStep (enter .advance s) t := execAdvance_next rfl ((execAdvance_enter _).trans h)
    exact (loopStep_mem hrow).trans (enter_mem ..)
  | _ => cases h; simp

/-- A step that happens is an operation, run once what was issued is taken. -/
theorem step_next_exec (h : step s = .next t) : ∃ i, exec i (taken s) = .next t := by
  unfold step at h
  split at h
  · cases h
  · split at h
    · next i _ => exact ⟨i, h⟩
    · cases h

/-- Settles O32: no operation writes memory, and a step is an operation. -/
theorem noOperationWritesMemory : Obligations.NoOperationWritesMemory := by
  unfold Obligations.NoOperationWritesMemory
  refine ⟨fun i s t h a => ?_, fun s t h => ?_⟩
  · rw [State.memRead_eq, State.memRead_eq, exec_mem h]
  · obtain ⟨i, hi⟩ := step_next_exec h
    exact (exec_mem hi).trans (taken_mem _)

end Sys2Proof.Machine

/-! ### A step reads no byte but the next one of its buffer (R40, R45) -/

namespace Sys2Proof.Machine

variable {s t : State} {m : Memory}

/-- The same state over another memory. -/
def State.withMem (s : State) (m : Memory) : State := { s with mem := m }

/-- The Pulse Driver does not look at memory. -/
theorem drive_withMem (c : Bool) : drive c (s.withMem m) = (drive c s).withMem m := by
  have haction (a i : Bool) : driverAction a i c (s.withMem m) = (driverAction a i c s).withMem m := by
    cases a <;> cases i <;> cases c <;> rfl
  exact haction s.alt s.inv

/-- A row of R89's table is the same row over a memory that holds the same next byte, if a byte is left: only the
fetch of `ADVANCE` reads (R85). -/
theorem loopStep_withMem (h : LoopStep s t)
    (hnext : incMod s.cfg.aw s.ptr ≠ s.endAddr →
      m.read (incMod s.cfg.aw s.ptr) = s.mem.read (incMod s.cfg.aw s.ptr)) :
    LoopStep (s.withMem m) (t.withMem m) := by
  have hdrive (c : Bool) (x : LoopState) :
      enter x (drive c (s.withMem m)) = (enter x (drive c s)).withMem m := by rw [drive_withMem]; rfl
  cases h with
  | rest hst => exact .rest hst
  | slotStarts hst hdue => exact .slotStarts (s := s.withMem m) hst hdue
  | slotNotDue hst hdue => exact .slotNotDue (s := s.withMem m) hst hdue
  | asserts hst => exact hdrive .. ▸ .asserts hst
  | holdEnds hst hdue => exact .holdEnds (s := s.withMem m) hst hdue
  | holdGoesOn hst hdue => exact .holdGoesOn (s := s.withMem m) hst hdue
  | deasserts hst => exact hdrive .. ▸ .deasserts hst
  | nextBit hst hm => exact .nextBit (s := s.withMem m) hst hm
  | callEnds hst hm he => exact .callEnds (s := s.withMem m) hst hm he
  | nextByte hst hm he b hb => exact .nextByte (s := s.withMem m) hst hm he b ((hnext he).trans hb)

/-- The address after `PTR` does not wrap, and unless it is `END` it lies before it (R21, R53). -/
theorem nextAddress_in_rest (h : s.Inv) (hr : s.running) (he : incMod s.cfg.aw s.ptr ≠ s.endAddr) :
    s.ptr < incMod s.cfg.aw s.ptr ∧ incMod s.cfg.aw s.ptr < s.endAddr := by
  have hptr := h.in_buffer hr
  rw [incMod_of_lt hptr h.endAddr_fits] at he ⊢
  omega

/-- Settles O39: the step is a row of the loop's table, and the one byte a row can read is in the rest of the
buffer. -/
theorem noByteOutsideTheRestOfTheBufferIsRead : Obligations.NoByteOutsideTheRestOfTheBufferIsRead := by
  unfold Obligations.NoByteOutsideTheRestOfTheBufferIsRead
  intro s t m hinv hr hq hagree h
  have hrow : LoopStep (s.withMem m) (t.withMem m) := loopStep_withMem (step_quiet hq h) fun he => by
    obtain ⟨hafter, hbefore⟩ := nextAddress_in_rest hinv hr he
    exact hagree _ hafter hbefore
  exact hrow.step hq

end Sys2Proof.Machine

/-! ### Decoding and encoding are inverse (R60, R61, R70, R72) -/

namespace Sys2Proof

variable {c : Config} {w n a b : Nat}

/-! A field at the low end of a word -/

theorem lowBits_append (h : a < 2 ^ n) : lowBits n (a + 2 ^ n * b) = a := by
  rw [lowBits, Nat.add_mul_mod_self_left, Nat.mod_eq_of_lt h]

theorem dropBits_append (h : a < 2 ^ n) : dropBits n (a + 2 ^ n * b) = b := by
  rw [dropBits, Nat.add_mul_div_left _ _ (by positivity), Nat.div_eq_of_lt h, Nat.zero_add]

theorem lowBits_append_dropBits (n w : Nat) : lowBits n w + 2 ^ n * dropBits n w = w :=
  Nat.mod_add_div ..

theorem lowBits_of_lt (h : w < 2 ^ n) : lowBits n w = w := Nat.mod_eq_of_lt h

theorem fits_lowBits (n w : Nat) : fits n (lowBits n w) = true :=
  decide_eq_true (Nat.mod_lt _ (by positivity))

theorem dropBits_lt {m : Nat} (h : w < 2 ^ (n + m)) : dropBits n w < 2 ^ m :=
  Nat.div_lt_of_lt_mul (by rwa [← Nat.pow_add])

theorem testBit_append (h : a < 2 ^ n) {j : Nat} (hj : j < n) : (a + 2 ^ n * b).testBit j = a.testBit j := by
  rw [Nat.add_comm, Nat.testBit_two_pow_mul_add _ h, if_pos hj]

/-! Commands (R60, R61) -/

/-- The selector of a command: `op[1] = alt`, `op[0] = inv` (R61). -/
def selector (alt inv : Bool) : Nat := 2 * alt.toNat + inv.toNat

theorem selector_lt (alt inv : Bool) : selector alt inv < 2 ^ 2 := by
  cases alt <;> cases inv <;> decide

theorem testBit_selector (alt inv : Bool) :
    (selector alt inv).testBit 1 = alt ∧ (selector alt inv).testBit 0 = inv := by
  cases alt <;> cases inv <;> decide

theorem selector_testBit (w : Nat) : selector (w.testBit 1) (w.testBit 0) = lowBits 2 w := by
  simp only [selector, lowBits, Nat.toNat_testBit]
  omega

theorem encode_command (k : Command) :
    encode c k.instr = encodeCommand c (selector k.alt k.inv) k.a0 k.a1 k.a2 k.a3 k.a4 k.a5 := by
  obtain ⟨alt, inv⟩ := k
  cases alt <;> cases inv <;> rfl

theorem wellFormed_command (k : Command) : k.instr.wellFormed c = true ↔ k.fits c := by
  obtain ⟨alt, inv⟩ := k
  cases alt <;> cases inv <;> rfl

theorem decode_command (h : w < 2 ^ Format.cmd.width c) : decode c .cmd w = .ok (commandOfWord c w).instr :=
  if_neg (Nat.not_le.mpr h)

/-- The tuple read from a command's word is the command: each field is cut off at its width. -/
theorem commandOfWord_encode {k : Command} (h : k.fits c) : commandOfWord c (encode c k.instr).2 = k := by
  simp only [Command.fits, argumentsFit, fits, Bool.and_eq_true, decide_eq_true_eq] at h
  obtain ⟨⟨⟨⟨⟨h0, h1⟩, h2⟩, h3⟩, h4⟩, h5⟩ := h
  have hop := selector_lt k.alt k.inv
  simp only [commandOfWord, encode_command, encodeCommand, testBit_append hop, testBit_selector,
    dropBits_append hop, dropBits_append h0, dropBits_append h1, dropBits_append h2, dropBits_append h3,
    dropBits_append h4, lowBits_append h0, lowBits_append h1, lowBits_append h2, lowBits_append h3,
    lowBits_append h4, lowBits_of_lt h5, Nat.one_lt_two, Nat.two_pos]

theorem decode_encode_command (k : Command) (hk : k.instr.wellFormed c = true) :
    decode c (encode c k.instr).1 (encode c k.instr).2 = .ok k.instr := by
  have h := (wellFormed_command k).mp hk
  have hformat : (encode c k.instr).1 = .cmd := congrArg Prod.fst (encode_command k)
  have hfit : (encode c k.instr).2 < 2 ^ Format.cmd.width c := by
    rw [encode_command]
    exact Laws.EncodeFits.command (selector_lt ..) h
  rw [hformat, decode_command hfit, commandOfWord_encode h]

/-- A command word is put together again from its fields: each is the low end of what the ones before it left. -/
theorem encode_commandOfWord (h : w < 2 ^ Format.cmd.width c) : encode c (commandOfWord c w).instr = (.cmd, w) := by
  simp only [Format.width, Nat.add_assoc] at h
  have hlast := dropBits_lt (dropBits_lt (dropBits_lt (dropBits_lt (dropBits_lt (dropBits_lt h)))))
  simp only [encode_command, encodeCommand, commandOfWord, selector_testBit, lowBits_of_lt hlast,
    lowBits_append_dropBits]

theorem fits_commandOfWord (c : Config) (w : Nat) : (commandOfWord c w).fits c := by
  simp [Command.fits, argumentsFit, commandOfWord, fits_lowBits]

/-! State codes, driver codes and the one-bit formats (R70, R72, R115, R120) -/

theorem encode_microStep (x : LoopState) : encode c x.microStep = (.st, x.code) := by
  cases x <;> rfl

theorem code_of_ofCode {x : LoopState} (h : LoopState.ofCode w = some x) : x.code = w := by
  unfold LoopState.ofCode at h
  split at h <;> cases h <;> rfl

/-- The code `{ALT, INV, ACT}` of a driver micro-operation (R70). -/
def driverCode (alt inv act : Bool) : Nat := 4 * alt.toNat + 2 * inv.toNat + act.toNat

theorem encode_driver (alt inv act : Bool) : encode c (Instr.driver alt inv act) = (.drv, driverCode alt inv act) := by
  cases alt <;> cases inv <;> cases act <;> rfl

theorem decode_driverCode (alt inv act : Bool) :
    decode c .drv (driverCode alt inv act) = .ok (Instr.driver alt inv act) := by
  cases alt <;> cases inv <;> cases act <;> simp [decode, driverCode, Format.width, Nat.testBit]

theorem decode_encode_driver (alt inv act : Bool) : decode c (encode c (Instr.driver alt inv act)).1
    (encode c (Instr.driver alt inv act)).2 = .ok (Instr.driver alt inv act) := by
  rw [encode_driver, decode_driverCode]

theorem driverCode_testBit (h : w < 2 ^ 3) : driverCode (w.testBit 2) (w.testBit 1) (w.testBit 0) = w := by
  simp only [driverCode, Nat.toNat_testBit]
  omega

theorem encode_symbol (bit : Bool) : encode c (Instr.symbol bit) = (.sym, bit.toNat) := by
  cases bit <;> rfl

theorem encode_dur (bit : Bool) : encode c (.dur bit) = (.dur, bit.toNat) := by
  cases bit <;> rfl

theorem decode_symbol (bit : Bool) : decode c .sym bit.toNat = .ok (Instr.symbol bit) := by
  cases bit <;> simp [decode, Format.width]

theorem decode_dur (bit : Bool) : decode c .dur bit.toNat = .ok (.dur bit) := by
  cases bit <;> simp [decode, Format.width]

theorem toNat_testBit_zero (h : w < 2 ^ 1) : (w.testBit 0).toNat = w := by
  rw [Nat.toNat_testBit]
  omega

/-- Settles O1: a command by its fields, every other operation by its code. -/
theorem decodeOfEncodeIsTheInstruction : Obligations.DecodeOfEncodeIsTheInstruction := by
  unfold Obligations.DecodeOfEncodeIsTheInstruction
  intro c i h
  cases i with
  | txpn a0 a1 a2 a3 a4 a5 => exact decode_encode_command ⟨false, false, a0, a1, a2, a3, a4, a5⟩ h
  | txpi a0 a1 a2 a3 a4 a5 => exact decode_encode_command ⟨false, true, a0, a1, a2, a3, a4, a5⟩ h
  | txan a0 a1 a2 a3 a4 a5 => exact decode_encode_command ⟨true, false, a0, a1, a2, a3, a4, a5⟩ h
  | txai a0 a1 a2 a3 a4 a5 => exact decode_encode_command ⟨true, true, a0, a1, a2, a3, a4, a5⟩ h
  | idle => exact Machine.decode_stateCode c .idle
  | awaitSlot => exact Machine.decode_stateCode c .awaitSlot
  | assert => exact Machine.decode_stateCode c .assert
  | hold => exact Machine.decode_stateCode c .hold
  | deassert => exact Machine.decode_stateCode c .deassert
  | advance => exact Machine.decode_stateCode c .advance
  | done => exact Machine.decode_stateCode c .done
  | assertPN => exact decode_encode_driver false false true
  | deassertPN => exact decode_encode_driver false false false
  | assertPI => exact decode_encode_driver false true true
  | deassertPI => exact decode_encode_driver false true false
  | assertAN => exact decode_encode_driver true false true
  | deassertAN => exact decode_encode_driver true false false
  | assertAI => exact decode_encode_driver true true true
  | deassertAI => exact decode_encode_driver true true false
  | dur bit => rw [encode_dur, decode_dur]
  | now => rfl
  | sym0 => exact decode_symbol false
  | sym1 => exact decode_symbol true

/-- Settles O2: a word is the code of what it decodes to, and the word of a command is made of its fields. -/
theorem encodeOfDecodeIsTheWord : Obligations.EncodeOfDecodeIsTheWord := by
  unfold Obligations.EncodeOfDecodeIsTheWord
  intro c f w i h
  have hw := Machine.decode_ok h
  unfold decode at h
  rw [if_neg (Nat.not_le.mpr hw)] at h
  cases f with
  | cmd =>
    cases h
    exact ⟨encode_commandOfWord hw, (wellFormed_command _).mpr (fits_commandOfWord c w)⟩
  | st =>
    simp only at h
    split at h
    · next x hx =>
      cases h
      rw [encode_microStep, code_of_ofCode hx]
      exact ⟨rfl, by cases x <;> rfl⟩
    · cases h
  | drv =>
    cases h
    rw [encode_driver, driverCode_testBit hw]
    exact ⟨rfl, by cases w.testBit 2 <;> cases w.testBit 1 <;> cases w.testBit 0 <;> rfl⟩
  | dur =>
    cases h
    rw [encode_dur, toNat_testBit_zero hw]
    exact ⟨rfl, rfl⟩
  | clk =>
    cases h
    have hzero : w = 0 := Nat.lt_one_iff.mp hw
    exact ⟨by rw [hzero]; rfl, rfl⟩
  | sym =>
    cases h
    rw [encode_symbol, toNat_testBit_zero hw]
    exact ⟨rfl, by cases w.testBit 0 <;> rfl⟩

/-- Settles O3: each word is that of its operation, by computing the sum of its fields, and so it decodes to it. -/
theorem writtenOutWordsDecode : Obligations.WrittenOutWordsDecode := by
  unfold Obligations.WrittenOutWordsDecode
  have hword {f : Format} {w : Nat} {i : Instr} (hi : i.wellFormed Config.default = true)
      (he : encode Config.default i = (f, w)) : decode Config.default f w = .ok i := by
    have hdecode := decodeOfEncodeIsTheInstruction Config.default i hi
    rwa [he] at hdecode
  exact ⟨hword (by decide) (by decide), hword (by decide) (by decide), hword (by decide) (by decide),
    hword (by decide) (by decide), hword rfl rfl, hword rfl rfl, hword rfl rfl, hword rfl rfl, hword rfl rfl,
    hword rfl rfl, hword rfl rfl, hword rfl rfl⟩

/-- Settles O4: code 7 is in no row of the state table, and the decoder first compares a word with its format. -/
theorem wordsThatEncodeNothingAreRejected : Obligations.WordsThatEncodeNothingAreRejected := by
  unfold Obligations.WordsThatEncodeNothingAreRejected
  exact ⟨fun _ => rfl, fun _ _ _ h => if_pos h⟩

end Sys2Proof

/-! ### The ideal loop sends the symbol of the current bit (R67, R83, R95, R125) -/

namespace Sys2Proof.Machine

variable {s : State} {e n : Nat}

/-- A difference of two counter values is the elapsed time while that is below a wrap (R122). -/
theorem subMod_add_mod {w b : Nat} (hb : b < 2 ^ w) (hn : n < 2 ^ w) : subMod w ((b + n) % 2 ^ w) b = n := by
  rw [subMod_eq, Nat.mod_mod, Nat.mod_eq_of_lt hb, Nat.add_mod_mod]
  have hsum : 2 ^ w - b + (b + n) = n + 2 ^ w := by omega
  rw [hsum, Nat.add_mod_right, Nat.mod_eq_of_lt hn]

/-- The duration of a bit fits the width of the cycle quantities (R12, R115). -/
theorem duration_lt (h : s.Inv) (bit : Bool) : s.duration bit < 2 ^ s.cfg.ccw := by
  cases bit
  · exact h.sh_fits
  · exact h.lh_fits

/-- The state without its place in the loop and without the environment's draws: what is left is the block's
registers and latches, the outside, and the time. Two ways to send a pulse are compared by it. -/
def State.settled (s : State) : State := { s with st := .idle, stalls := [], draws := 0, repoll := false }

/-- The same state `n` ticks later. -/
def State.later (n : Nat) (s : State) : State := { s with t := s.t + n }

theorem later_later (m : Nat) : (s.later m).later n = s.later (m + n) := by
  simp [State.later, Nat.add_assoc]

theorem settled_drive (c : Bool) : (drive c s).settled = drive c s.settled := by
  have haction (a i : Bool) : (driverAction a i c s).settled = driverAction a i c s.settled := by
    cases a <;> cases i <;> cases c <;> rfl
  exact haction s.alt s.inv

/-- In `HOLD` with nothing issued, `e` ticks after the start of the slot; samples are ideal (R83, R125). -/
structure IdealHold (e : Nat) (s : State) : Prop where
  quiet : s.request = none
  ideal : s.cfg.profile = .ideal
  holding : s.st = .hold
  tstart_fits : s.tstart < 2 ^ s.cfg.ccw
  duration_fits : s.currentDuration < 2 ^ s.cfg.ccw
  elapsed : s.cc = (s.tstart + e) % 2 ^ s.cfg.ccw

/-- The test of R83 compares the true elapsed time. -/
theorem IdealHold.holdDue_sample_iff (h : IdealHold e s) (hle : e + s.gmin ≤ s.currentDuration) :
    (sample s).holdDue = true ↔ s.currentDuration = e + s.gmin := by
  have hcc : (sample s).cc = (s.tstart + (e + s.gmin)) % 2 ^ s.cfg.ccw := by
    rw [cc_sample_eq, gap_of_ideal h.ideal, h.elapsed, Nat.mod_add_mod, Nat.add_assoc]
  have hlt := h.duration_fits
  rw [holdDue_sample, hcc, subMod_add_mod h.tstart_fits (by omega)]
  omega

theorem IdealHold.pollAgain (h : IdealHold e s) : IdealHold (e + s.gmin) (pollAgain .hold (sample s)) where
  quiet := h.quiet
  ideal := h.ideal
  holding := rfl
  tstart_fits := h.tstart_fits
  duration_fits := h.duration_fits
  elapsed := by
    rw [pollAgain_cc, cc_sample_eq, gap_of_ideal h.ideal, h.elapsed, Nat.mod_add_mod, Nat.add_assoc]
    rfl

/-- The ideal wait of R83 ends exactly when the duration of the bit is over: `n` polls after the first that can
pass, each a tick later than the one before. -/
theorem IdealHold.reaches_deassert (h : IdealHold e s) (hn : s.currentDuration = e + s.gmin + n) :
    ∃ s', Reaches s s' ∧ s'.st = .deassert ∧ s'.settled = s.settled.later (s.gmin + n) := by
  induction n generalizing e s with
  | zero =>
    have hdue := (h.holdDue_sample_iff (by omega)).mpr hn
    refine ⟨_, .single ((LoopStep.holdEnds h.holding hdue).step h.quiet), rfl, ?_⟩
    rw [Nat.add_zero, ← gap_of_ideal h.ideal]
    rfl
  | succ n ih =>
    have hnotDue : (sample s).holdDue = false := by
      rw [← Bool.not_eq_true, h.holdDue_sample_iff (by omega)]
      omega
    have hstep := (LoopStep.holdGoesOn h.holding hnotDue).step h.quiet
    have hgmin : (Machine.pollAgain .hold (sample s)).gmin = 1 := rfl
    have hnext := h.pollAgain
    have hleft : s.currentDuration = e + s.gmin + 1 + n := by omega
    obtain ⟨s', hreach, hst, hsettled⟩ := ih hnext hleft
    refine ⟨s', .head hstep hreach, hst, ?_⟩
    have hpoll : (Machine.pollAgain .hold (sample s)).settled = s.settled.later s.gmin := by
      rw [← gap_of_ideal h.ideal]
      rfl
    rw [hsettled, hpoll, hgmin, later_later, Nat.add_comm 1 n]

/-- A symbol lets exactly its duration pass, in the ideal profile (R68, R69). -/
theorem settled_sendSymbol_ideal (h : s.cfg.profile = .ideal) (bit : Bool) :
    (sendSymbol bit s).settled = drive false ((drive true s).settled.later (s.duration bit)) := by
  have hover : (drive true s).overshoot (s.duration bit) = 0 := overshoot_of_ideal (by simpa using h)
  have helapse : (elapse (s.duration bit) (drive true s)).settled
      = (drive true s).settled.later (s.duration bit + (drive true s).overshoot (s.duration bit)) := by
    simp [State.settled, State.later, elapse, Nat.add_assoc]
  rw [sendSymbol, settled_drive, helapse, hover, Nat.add_zero]

/-- After the assert of R82 the wait of R83 begins, at the start of the slot. -/
theorem idealHold_after_assert (h : s.Inv) (hq : s.request = none) (hi : s.cfg.profile = .ideal)
    (hts : s.tstart = s.cc) : IdealHold 0 (enter .hold (drive true s)) where
  quiet := by simpa using hq
  ideal := by simpa using hi
  holding := rfl
  tstart_fits := by simpa using h.tstart_fits
  duration_fits := by
    rw [enter_currentDuration, enter_cfg, drive_currentDuration, drive_cfg]
    exact duration_lt h _
  elapsed := by simp [hts, Nat.mod_eq_of_lt cc_lt]

/-- The loop sends a pulse as the symbol of its bit does: up to the place in the loop and the draws used up, the
states are the same. -/
theorem reaches_advance_settled (h : s.Inv) (hq : s.request = none) (hi : s.cfg.profile = .ideal)
    (hst : s.st = .assert) (hts : s.tstart = s.cc) :
    ∃ s', Reaches s s' ∧ s'.st = .advance ∧ s'.settled = (sendSymbol s.currentBit s).settled := by
  have hassert : Steps s (enter .hold (drive true s)) := (LoopStep.asserts hst).step hq
  have hgmin : (enter .hold (drive true s)).gmin = 0 :=
    gmin_of_first (by simpa using repoll_eq_false_of_inv h (by simp [hst]) (by simp [hst]))
  obtain ⟨v, hreach, hv, hsettled⟩ := (idealHold_after_assert h hq hi hts).reaches_deassert
    (n := s.currentDuration) (by simp [hgmin])
  have hvq : v.request = none := (congrArg State.request hsettled).trans ((drive_request s true).trans hq)
  have hdeassert : Steps v (enter .advance (drive false v)) := (LoopStep.deasserts hv).step hvq
  refine ⟨_, (Relation.ReflTransGen.head hassert hreach).tail hdeassert, rfl, ?_⟩
  rw [settled_sendSymbol_ideal hi]
  calc (enter .advance (drive false v)).settled
      = drive false v.settled := settled_drive false
    _ = drive false ((drive true s).settled.later s.currentDuration) := by
      rw [hsettled, hgmin, Nat.zero_add]
      rfl

/-- Settles O31: the loop's pulse and the symbol agree in every register, so in all that the statement lists. -/
theorem loopSendsTheSymbolOfTheCurrentBit : Obligations.LoopSendsTheSymbolOfTheCurrentBit := by
  unfold Obligations.LoopSendsTheSymbolOfTheCurrentBit
  intro s t h hq hi hst hts ht
  rw [exec_symbol] at ht
  cases ht
  obtain ⟨s', hreach, hadvance, hsettled⟩ := reaches_advance_settled h hq hi hst hts
  have hfield {α : Type} (f : State → α) : f s'.settled = f (sendSymbol s.currentBit s).settled :=
    congrArg f hsettled
  exact ⟨s', hreach, hadvance, hfield State.wtrace, hfield State.pout, hfield State.aout, hfield State.t,
    (hfield State.ptr).trans (sendSymbol_ptr ..), (hfield State.mask).trans (sendSymbol_mask ..),
    (hfield State.tstart).trans (sendSymbol_tstart ..)⟩

end Sys2Proof.Machine

/-! ### A symbol is one pulse on the line of the call (R67 to R69) -/

namespace Sys2Proof.Machine

variable {s : State}

/-- Everything a symbol changes: the registers, the trace and the time. -/
theorem sendSymbol_eq (bit : Bool) : sendSymbol bit s = { s with
    pout := (sendSymbol bit s).pout, aout := (sendSymbol bit s).aout, wtrace := (sendSymbol bit s).wtrace
    t := (sendSymbol bit s).t, stalls := (sendSymbol bit s).stalls, draws := (sendSymbol bit s).draws
    repoll := (sendSymbol bit s).repoll } := by
  obtain ⟨_, _, _, _, _, _, inv, alt⟩ := s
  cases inv <;> cases alt <;> rfl

/-- The entry that drives the line of the call (R31, R112). -/
def State.lineEntry (s : State) (level : Bool) : TraceEntry :=
  s.entry (bankOf s.alt) (if s.alt then s.cfg.abit else s.pin) level

theorem drive_wtrace_lineEntry (c : Bool) : (drive c s).wtrace = s.wtrace ++ [s.lineEntry (xor c s.inv)] :=
  drive_wtrace ..

theorem sendSymbol_t (bit : Bool) :
    (sendSymbol bit s).t = s.t + s.duration bit + (drive true s).overshoot (s.duration bit) := by
  simp [sendSymbol]

/-- The two writes of a symbol: an assert now, a de-assert when the symbol is over (R67). -/
theorem sendSymbol_wtrace (bit : Bool) : (sendSymbol bit s).wtrace =
    s.wtrace ++ [s.lineEntry (!s.inv), { s with t := (sendSymbol bit s).t }.lineEntry s.inv] := by
  have hline : (elapse (s.duration bit) (drive true s)).lineEntry s.inv =
      { s with t := (sendSymbol bit s).t }.lineEntry s.inv := by
    simp [State.lineEntry, State.entry, sendSymbol]
  rw [← hline, sendSymbol, drive_wtrace_lineEntry, elapse_wtrace, drive_wtrace_lineEntry, List.append_assoc]
  simp

/-- Settles O30: the two writes of a symbol are its overshoot and its duration apart, and touch one line. -/
theorem symbolsAreAssertedForTheirDuration : Obligations.SymbolsAreAssertedForTheirDuration := by
  unfold Obligations.SymbolsAreAssertedForTheirDuration
  intro s h p hp
  obtain ⟨bit, hexec, hdur⟩ : ∃ bit, exec p.1 s = .next (sendSymbol bit s) ∧ p.2 = s.duration bit := by
    simp only [List.mem_cons, List.not_mem_nil, or_false] at hp
    obtain rfl | rfl := hp
    · exact ⟨false, rfl, rfl⟩
    · exact ⟨true, rfl, rfl⟩
  have htime := sendSymbol_t (s := s) bit
  have hown := ownLineOnly_of_writesOnly h (writesOnly_sendSymbol bit)
  refine ⟨sendSymbol bit s, s.lineEntry (!s.inv), { s with t := (sendSymbol bit s).t }.lineEntry s.inv, hexec,
    ?_, rfl, rfl, rfl, rfl, rfl, rfl, rfl, rfl, ?_⟩
  · rw [← sendSymbol_wtrace]
    exact sendSymbol_eq bit
  · simp only [State.lineEntry, State.entry, htime, hdur]
    refine ⟨by omega, fun hi => ?_, fun J hJ hpos => ?_, fun j hj => ?_, fun j hj => ?_⟩
    · rw [overshoot_of_ideal (by simpa using hi)]
      omega
    · have hover : (drive true s).overshoot (s.duration bit) ≤ J - 1 :=
        overshoot_le_of_bounded (by simpa using hJ) hpos
      omega
    · obtain halt | hne := hj
      · exact congrArg (Nat.testBit · j) (hown.ofAlternate halt)
      · exact hown.primary j hne
    · obtain halt | hne := hj
      · exact congrArg (Nat.testBit · j) (hown.ofPrimary halt)
      · exact hown.alternate j hne

end Sys2Proof.Machine

/-! ### What a command is started with, and where it is stopped (R63, R64, R73, R80) -/

namespace Sys2Proof.Machine

variable {k : Command} {s t : State}

theorem accepting_of_not_running (h : ¬ s.running) : s.accepting = true := by
  rw [accepting_iff]
  unfold State.running at h
  tauto

theorem not_accepting_of_running (h : s.running) : s.accepting = false := by
  rw [← Bool.not_eq_true, accepting_iff]
  exact fun ha => ha.elim h.1 h.2

/-- The arguments of a command that fits are latched as they are (R60, R62). -/
structure LatchedWhole (c : Config) (k : Command) : Prop where
  a0 : trunc c.aw k.a0 = k.a0
  a1 : trunc c.aw k.a1 = k.a1
  a2 : trunc c.pw k.a2 = k.a2
  a3 : trunc c.ccw k.a3 = k.a3
  a4 : trunc c.ccw k.a4 = k.a4
  a5 : trunc c.ccw k.a5 = k.a5

theorem latchedWhole_of_fits {c : Config} (h : k.fits c) : LatchedWhole c k := by
  simp only [Command.fits, argumentsFit, fits, Bool.and_eq_true, decide_eq_true_eq] at h
  obtain ⟨⟨⟨⟨⟨h0, h1⟩, h2⟩, h3⟩, h4⟩, h5⟩ := h
  exact ⟨trunc_of_lt h0, trunc_of_lt h1, trunc_of_lt h2, trunc_of_lt h3, trunc_of_lt h4, trunc_of_lt h5⟩

/-- During a call every command is refused (U1). -/
theorem accept_of_running (h : s.running) : accept k s = .refused .commandDuringCall :=
  if_pos (by simp [not_accepting_of_running h])

theorem accept_of_end_lt_start (hr : ¬ s.running) (h : trunc s.cfg.aw k.a1 < trunc s.cfg.aw k.a0) :
    accept k s = .refused .endBeforeStart := by
  simp [accept, accepting_of_not_running hr, h]

theorem accept_of_no_line (hr : ¬ s.running) (hle : trunc s.cfg.aw k.a0 ≤ trunc s.cfg.aw k.a1)
    (ha : k.alt = false) (h : s.cfg.nl ≤ trunc s.cfg.pw k.a2) : accept k s = .refused .noSuchLine := by
  simp [accept, accepting_of_not_running hr, Nat.not_lt.mpr hle, ha, h]

/-- A non-empty buffer whose first byte cannot be read leaves the command stuck (U6). -/
theorem startCall_of_unreadable (hne : s.ptr ≠ s.endAddr) (h : s.mem.read s.ptr = none) :
    startCall s = .refused .stuckRead := by
  rw [startCall, if_neg hne]
  exact fetchByte_of_none h

/-- Settles O10: the tests of R80 in their order, then the fetch of the first byte. -/
theorem commandsWithoutMeaningAreStopped : Obligations.CommandsWithoutMeaningAreStopped := by
  unfold Obligations.CommandsWithoutMeaningAreStopped
  intro k s hfits
  obtain ⟨h0, h1, h2, -⟩ := latchedWhole_of_fits hfits
  rw [exec_command]
  refine ⟨accept_of_running, fun hr hlt => ?_, fun hr hle ha hl => ?_, fun hr hd hlt hread => ?_⟩
  · exact accept_of_end_lt_start hr (by rwa [h0, h1])
  · exact accept_of_no_line hr (by rwa [h0, h1]) ha (by rwa [h2])
  · obtain ⟨hle, hline⟩ := hd
    rw [accept_of (accepting_of_not_running hr) (by rwa [h0, h1]) (by rwa [h2])]
    apply startCall_of_unreadable
    · rw [newCall_ptr, newCall_endAddr, h0, h1]
      exact hlt.ne
    · rwa [newCall_mem, newCall_ptr, h0]

/-- What the block holds of the line of the call once the command is accepted (R13 to R15, R63, R80). -/
structure LineOf (k : Command) (s t : State) : Prop where
  alt : t.alt = k.alt
  inv : t.inv = k.inv
  pin : k.alt = false → t.pin = trunc s.cfg.pw k.a2
  st : t.st = .done ∨ t.st = .awaitSlot

theorem lineOf_accept (h : accept k s = .next t) : LineOf k s t := by
  obtain ⟨-, -, -, hstart⟩ := accept_next h
  obtain ⟨-, rfl⟩ | ⟨-, b, -, rfl⟩ := startCall_next hstart
  · constructor <;> simp +contextual
  · constructor <;> simp +contextual

/-- A command leaves the GPIO registers alone, so its line has the level it had before (R27, R80). -/
theorem line_accept (h : accept k s = .next t) :
    t.line = if k.alt then s.aout.testBit s.cfg.abit else s.pout.testBit (trunc s.cfg.pw k.a2) := by
  obtain ⟨hcfg, -, -, hpout, haout, -⟩ := accept_frame h
  obtain ⟨halt, -, hpin, -⟩ := lineOf_accept h
  rw [State.line, halt, hcfg, hpout, haout]
  cases hk : k.alt with
  | false => simp [hpin hk]
  | true => rfl

/-- An alternate variant does not look at `a2` (R63). -/
theorem accept_alternate (ha : k.alt = true) (a2 : Nat) : accept { k with a2 := a2 } s = accept k s := by
  simp [accept, newCall, ha]

/-- Settles O11: `accept` does not look at the line index of an alternate variant. -/
theorem alternateVariantsIgnoreTheLineIndex : Obligations.AlternateVariantsIgnoreTheLineIndex := by
  unfold Obligations.AlternateVariantsIgnoreTheLineIndex
  intro a0 a1 a2 a2' a3 a4 a5 s
  refine ⟨(accept_alternate (k := ⟨true, false, a0, a1, a2, a3, a4, a5⟩) rfl a2').symm,
    (accept_alternate (k := ⟨true, true, a0, a1, a2, a3, a4, a5⟩) rfl a2').symm, fun t ht => ?_⟩
  obtain ⟨inv, h⟩ : ∃ inv, accept ⟨true, inv, a0, a1, a2, a3, a4, a5⟩ s = .next t :=
    ht.elim (fun h => ⟨false, h⟩) fun h => ⟨true, h⟩
  rw [State.line, (lineOf_accept h).alt]
  rfl

end Sys2Proof.Machine

/-! ### The line is asserted exactly from the assert to the de-assert (R67, R82, R84, R98) -/

namespace Sys2Proof.Machine

variable {s t : State}

theorem expectedLine_of_asserted (h : s.st = .hold ∨ s.st = .deassert) : s.expectedLine = !s.inv := if_pos h

theorem expectedLine_of_deasserted (hh : s.st ≠ .hold) (hd : s.st ≠ .deassert) : s.expectedLine = s.inv :=
  if_neg (by simp [hh, hd])

/-- `ASSERT` and `DEASSERT` bring the line to the level that the next state asks for, whatever it had. -/
theorem line_enter_drive (h : s.Inv) (hr : s.running) (c : Bool) (x : LoopState) :
    (enter x (drive c s)).line = xor c s.inv := by
  have hlegal := h.legal
  simp only [Config.legal, Bool.and_eq_true, decide_eq_true_eq] at hlegal
  obtain ⟨⟨-, habit⟩, -⟩ := hlegal
  exact line_drive c (h.line_exists hr) habit

/-- A row of R89's table that drives establishes the level, and every other one keeps the line and what is expected
of it. -/
theorem loopStep_line (h : s.Inv) (hs : LoopStep s t) :
    t.line = t.expectedLine ∨
      (t.line = s.line ∧ t.expectedLine = s.expectedLine ∧ s.st ≠ .assert ∧ s.st ≠ .deassert) := by
  cases hs with
  | asserts hst =>
    left
    rw [line_enter_drive h (running_of_st hst (by decide) (by decide)), expectedLine_of_asserted (.inl rfl)]
    simp
  | deasserts hst =>
    left
    rw [line_enter_drive h (running_of_st hst (by decide) (by decide)),
      expectedLine_of_deasserted (by simp) (by simp)]
    simp
  | rest hst => right; obtain hst | hst := hst <;> simp [hst]
  | slotStarts hst | slotNotDue hst | holdEnds hst | holdGoesOn hst | nextBit hst | callEnds hst | nextByte hst =>
    right
    simp [State.expectedLine, hst]

/-- Settles O37: the rows of the loop's table one by one, and the start of a call by its latches. -/
theorem lineIsAssertedExactlyInHoldAndDeassert : Obligations.LineIsAssertedExactlyInHoldAndDeassert := by
  unfold Obligations.LineIsAssertedExactlyInHoldAndDeassert
  refine ⟨fun s t h hq hs => ?_, fun k s t hfits hs hline => ?_⟩
  · obtain hest | ⟨hl, he, ha, hd⟩ := loopStep_line h (step_quiet hq hs)
    · exact ⟨fun _ => hest, fun _ => hest⟩
    · exact ⟨fun hkept => by rw [hl, he, hkept], fun hst => absurd hst (by simp [ha, hd])⟩
  · rw [exec_command] at hs
    obtain ⟨-, hinv, -, hst⟩ := lineOf_accept hs
    have hrest : t.expectedLine = k.inv := by
      rw [← hinv]
      obtain hst | hst := hst <;> exact expectedLine_of_deasserted (by simp [hst]) (by simp [hst])
    rw [line_accept hs, (latchedWhole_of_fits hfits).a2, hline, hrest]

end Sys2Proof.Machine

/-! ### A step runs what it fetches (R72, R80, R145) -/

namespace Sys2Proof.Machine

variable {s : State} {r : Request}

/-- What is issued intrudes exactly where nothing but a command is taken (R145, log 11). -/
theorem intruded_iff (hr : s.request = some r) :
    s.intruded = true ↔ ¬ (r.format = .cmd ∨ (s.cfg.bench = true ∧ ¬ s.running)) := by
  cases r with
  | cmd w => simp [intruded_of_command hr, Request.format]
  | drv | dur | clk | sym =>
    rw [intruded_of_component hr (by simp [Request.format])]
    by_cases hrun : s.running
    · simp [not_accepting_of_running hrun, Request.format, hrun]
    · simp [accepting_of_not_running hrun, Request.format, hrun]

theorem step_of_request_ok {i : Instr} (hr : s.request = some r) (h : s.intruded = false)
    (hi : decode s.cfg r.format r.word = .ok i) : step s = exec i (taken s) := by
  simp [step_of_not_intruded h, fetch, hr, hi]

theorem step_of_request_error {e : DecodeError} (hr : s.request = some r) (h : s.intruded = false)
    (he : decode s.cfg r.format r.word = .error e) : step s = .refused (.undecodable e) := by
  simp [step_of_not_intruded h, fetch, hr, he]

/-- Settles O5: a step runs what it fetches, unless what is issued intrudes. -/
theorem stepRunsTheDecodedInstruction : Obligations.StepRunsTheDecodedInstruction := by
  unfold Obligations.StepRunsTheDecodedInstruction
  refine ⟨fun s => step_of_none, fun s r hr htaken => ?_, fun s r hr hnot => ?_⟩
  · have hserved : s.intruded = false := by
      rw [← Bool.not_eq_true, intruded_iff hr]
      exact not_not_intro htaken
    exact ⟨fun i => step_of_request_ok hr hserved, fun e => step_of_request_error hr hserved⟩
  · exact step_of_intruded ((intruded_iff hr).mpr hnot)

end Sys2Proof.Machine

/-! ### A call that starts, and the host's command by its word (R80, R86, R170) -/

namespace Sys2Proof.Machine

variable {k : Command} {s s0 t : State} {b : Byte}

/-- The state in which a call of a non-empty buffer starts, its first byte read (R80, R170). -/
def startedCall (k : Command) (b : Byte) (s : State) : State := loadByte b (prime (sample (newCall k s)))

/-- A command that means something is accepted between calls. -/
theorem accept_of_defined (hst : s.st = .idle ∨ s.st = .done) (hfits : k.fits s.cfg) (hd : k.defined s.cfg) :
    accept k s = startCall (newCall k s) := by
  obtain ⟨h0, h1, h2, -⟩ := latchedWhole_of_fits hfits
  obtain ⟨hle, hline⟩ := hd
  exact accept_of (accepting_iff.mpr hst) (by rwa [h0, h1]) (by rwa [h2])

theorem exec_command_starts (hst : s.st = .idle ∨ s.st = .done) (hfits : k.fits s.cfg) (hd : k.defined s.cfg)
    (hlt : k.a0 < k.a1) (hb : s.mem.read k.a0 = some b) : exec k.instr s = .next (startedCall k b s) := by
  obtain ⟨h0, h1, -⟩ := latchedWhole_of_fits hfits
  have hne : (newCall k s).ptr ≠ (newCall k s).endAddr := by
    rw [newCall_ptr, newCall_endAddr, h0, h1]
    exact hlt.ne
  rw [exec_command, accept_of_defined hst hfits hd, startCall, if_neg hne, fetchByte_of_some (b := b)]
  · rfl
  · simpa [h0] using hb

/-- The latches of a started call hold the command's arguments as they are (R170). -/
structure Latched (k : Command) (t : State) : Prop where
  alt : t.alt = k.alt
  inv : t.inv = k.inv
  pin : k.alt = false → t.pin = k.a2
  endAddr : t.endAddr = k.a1
  sh : t.sh = k.a3
  lh : t.lh = k.a4
  per : t.per = k.a5

theorem latched_newCall (hfits : k.fits s.cfg) : Latched k (newCall k s) := by
  obtain ⟨-, h1, h2, h3, h4, h5⟩ := latchedWhole_of_fits hfits
  constructor <;> simp +contextual [*]

theorem latched_startedCall (hfits : k.fits s.cfg) : Latched k (startedCall k b s) :=
  { latched_newCall hfits with }

theorem startedCall_ptr (hfits : k.fits s.cfg) : (startedCall k b s).ptr = k.a0 :=
  (latchedWhole_of_fits hfits).a0

/-- The baseline is primed one period before the sample (R80). -/
theorem startedCall_tprev (hfits : k.fits s.cfg) :
    (startedCall k b s).tprev = subMod s.cfg.ccw (startedCall k b s).cc k.a5 := by
  have hper := (latchedWhole_of_fits hfits).a5
  simp [startedCall, hper]

theorem startedCall_t : (startedCall k b s).t = s.t + (newCall k s).gap := rfl

theorem newCall_gap_of_ideal (h : s.cfg.profile = .ideal) : (newCall k s).gap = 0 := by
  rw [gap_of_ideal (by simpa using h), gmin_of_first (newCall_repoll ..)]

/-- Settles O8: the started call, field by field. -/
theorem commandOnNonEmptyBufferStartsTheCall : Obligations.CommandOnNonEmptyBufferStartsTheCall := by
  unfold Obligations.CommandOnNonEmptyBufferStartsTheCall
  intro k s b _ hst hfits hd hlt hb
  obtain ⟨halt, hinv, hpin, hend, hsh, hlh, hper⟩ := latched_startedCall (b := b) hfits
  have ha5 : k.a5 < 2 ^ s.cfg.ccw := by
    rw [← (latchedWhole_of_fits hfits).a5]
    exact trunc_lt ..
  refine ⟨startedCall k b s, exec_command_starts hst hfits hd hlt hb, halt, hinv, hpin, hend, hsh, hlh, hper,
    startedCall_ptr hfits, rfl, rfl, ?_, rfl, rfl, ?_, fun hi => ?_, rfl, rfl, rfl, rfl, rfl, rfl, rfl⟩
  · rw [startedCall_tprev hfits, subMod_of_lt ha5]
  · rw [startedCall_t]
    omega
  · rw [startedCall_t, newCall_gap_of_ideal hi, Nat.add_zero]

/-- What the host has issued by a word is run as the operation the word decodes to (R80). -/
theorem serveHost_of_command {w : Nat} {i : Instr} (hr : s.request = some (.cmd w))
    (hi : decode s.cfg .cmd w = .ok i) : serveHost s = exec i (taken s) := by
  have hw := decode_ok hi
  obtain rfl : (commandOfWord s.cfg w).instr = i := by simpa [decode_command hw] using hi
  simp [serveHost, hr, Nat.not_le.mpr hw, exec_command]

/-- Settles O13: `IDLE` and `DONE` serve the host, and no command is issued. -/
theorem idleAndDoneWithoutACommandDoNothing : Obligations.IdleAndDoneWithoutACommandDoNothing := by
  unfold Obligations.IdleAndDoneWithoutACommandDoNothing
  exact fun s hq => ⟨serveHost_of_none hq, serveHost_of_none hq⟩

/-- Settles O14: `IDLE` and `DONE` serve the host alike. -/
theorem idleAndDoneTakeTheHostsCommand : Obligations.IdleAndDoneTakeTheHostsCommand := by
  unfold Obligations.IdleAndDoneTakeTheHostsCommand
  exact fun s w i hr hi => ⟨serveHost_of_command hr hi, serveHost_of_command hr hi⟩

/-- Settles O15: the word decodes to the command, which starts the call. -/
theorem idleAndDoneStartTheIssuedCommand : Obligations.IdleAndDoneStartTheIssuedCommand := by
  unfold Obligations.IdleAndDoneStartTheIssuedCommand
  intro k s b _ hst hfits hd hlt hb hr
  have hdecode : decode s.cfg .cmd (encode s.cfg k.instr).2 = .ok k.instr := by
    have h := decode_encode_command k ((wellFormed_command k).mpr hfits)
    rwa [encode_command] at h ⊢
  have hstart : exec k.instr (taken s) = .next (startedCall k b (taken s)) :=
    exec_command_starts hst hfits hd hlt hb
  have hserve : serveHost s = .next (startedCall k b (taken s)) := (serveHost_of_command hr hdecode).trans hstart
  have hstep := (step_of_request_ok hr (intruded_of_command hr) hdecode).trans hstart
  obtain ⟨halt, hinv, -, hend, hsh, hlh, hper⟩ := latched_startedCall (s := taken s) (b := b) hfits
  exact ⟨_, hserve, hserve, hstep, rfl, rfl, halt, hinv, startedCall_ptr (s := taken s) hfits, hend, hsh, hlh, hper,
    rfl, rfl, rfl, rfl, rfl, rfl⟩

end Sys2Proof.Machine

/-! ### The micro-steps of the loop, one by one (R81 to R85, R89) -/

namespace Sys2Proof.Machine

variable {s t : State}

/-- A sample is taken no sooner than a tick after a failed test (R123). -/
theorem one_le_gap_of_repoll (h : s.Inv) (hr : s.repoll = true) : 1 ≤ s.gap := by
  rw [← gmin_of_repoll hr]
  exact gmin_le_gap h.legal

/-- R81 by the outcome of its test. -/
theorem execAwaitSlot_eq (s : State) : execAwaitSlot s =
    .next (if s.per ≤ subMod s.cfg.ccw (sample s).cc s.tprev then startSlot (sample s)
      else pollAgain .awaitSlot (sample s)) := by
  rw [execAwaitSlot, testPeriod]
  simp only [slotDue_sample]
  split <;> rfl

/-- R83 by the outcome of its test. -/
theorem execHold_eq (s : State) : execHold s =
    .next (if s.currentDuration ≤ subMod s.cfg.ccw (sample s).cc s.tstart then enter .deassert (sample s)
      else pollAgain .hold (sample s)) := by
  rw [execHold, testDuration]
  simp only [holdDue_sample]
  split <;> rfl

/-- Settles O16: the sample's gap, then the two outcomes of the test. -/
theorem awaitSlotTakesOneSampleAndTestsThePeriod : Obligations.AwaitSlotTakesOneSampleAndTestsThePeriod := by
  unfold Obligations.AwaitSlotTakesOneSampleAndTestsThePeriod
  intro s h
  refine ⟨s.gap, _, one_le_gap_of_repoll h, execAwaitSlot_eq s, ?_⟩
  rw [← cc_sample, ← subMod_of_lt h.tprev_fits]
  split
  · exact ⟨rfl, rfl, rfl, rfl⟩
  · exact ⟨rfl, rfl, rfl, rfl⟩

theorem currentDuration_eq (s : State) : s.currentDuration = if (s.cur &&& s.mask) ≠ 0 then s.lh else s.sh := by
  simp [State.currentDuration, State.duration, State.currentBit]

/-- Settles O17: the sample's gap, then the two outcomes of the test. -/
theorem holdTakesOneSampleAndTestsTheDuration : Obligations.HoldTakesOneSampleAndTestsTheDuration := by
  unfold Obligations.HoldTakesOneSampleAndTestsTheDuration
  intro s h
  refine ⟨s.gap, _, one_le_gap_of_repoll h, execHold_eq s, ?_⟩
  rw [← cc_sample, ← subMod_of_lt h.tstart_fits, ← currentDuration_eq]
  split
  · exact ⟨rfl, rfl, rfl⟩
  · exact ⟨rfl, rfl, rfl⟩

/-- Settles O18: `Drive` is the register action of the selected row. -/
theorem assertAndDeassertDriveTheSelectedOperation : Obligations.AssertAndDeassertDriveTheSelectedOperation := by
  unfold Obligations.AssertAndDeassertDriveTheSelectedOperation
  exact fun s => ⟨⟨drive true s, exec_driver .., driverAction_eq .., rfl⟩,
    ⟨drive false s, exec_driver .., driverAction_eq .., rfl⟩⟩

/-- The pointer of a running call steps to the next address without a carry (R53). -/
theorem incMod_ptr (h : s.Inv) (hr : s.running) : incMod s.cfg.aw s.ptr = s.ptr + 1 :=
  incMod_of_lt (h.in_buffer hr) h.endAddr_fits

/-- Settles O19: the tests of R85 in their order, with the next address known. -/
theorem advanceMovesToTheNextBitByteOrEnd : Obligations.AdvanceMovesToTheNextBitByteOrEnd := by
  unfold Obligations.AdvanceMovesToTheNextBitByteOrEnd
  intro s h hst
  have hptr := incMod_ptr h (running_of_st hst (by decide) (by decide))
  have hnext : nextAddress (shiftMask s) = { s with tprev := s.tstart, mask := 0x80, ptr := s.ptr + 1 } := by
    rw [← hptr]
    rfl
  have hbyte (hm : s.mask >>> 1 = 0) : execAdvance s = nextByte (nextAddress (shiftMask s)) := if_pos hm
  rw [hnext] at hbyte
  refine ⟨fun hm => if_neg hm, fun hm he => ?_, fun b hm he hb => ?_, fun hm he hb => ?_⟩
  · exact (hbyte hm).trans (if_pos he)
  · exact (hbyte hm).trans ((if_neg he).trans (fetchByte_of_some hb))
  · exact (hbyte hm).trans ((if_neg he).trans (fetchByte_of_none hb))

/-- The state register after a row of R89's table. -/
theorem loopStep_st (h : s.Inv) (hs : LoopStep s t) :
    match s.st with
    | .idle => t.st = .idle
    | .done => t.st = .done
    | .awaitSlot => t.st = if s.per ≤ subMod s.cfg.ccw t.cc s.tprev then .assert else .awaitSlot
    | .assert => t.st = .hold
    | .hold => t.st = if s.currentDuration ≤ subMod s.cfg.ccw t.cc s.tstart then .deassert else .hold
    | .deassert => t.st = .advance
    | .advance => t.st = if s.mask >>> 1 ≠ 0 then .awaitSlot
        else if s.ptr + 1 ≠ s.endAddr then .awaitSlot else .done := by
  cases hs with
  | rest hst => obtain hst | hst := hst <;> simp [hst]
  | asserts hst | deasserts hst => simp [hst]
  | slotStarts hst due =>
    rw [hst]
    exact (if_pos (slotDue_sample.mp due)).symm
  | slotNotDue hst due =>
    rw [hst]
    exact (if_neg (Nat.not_le.mpr (not_slotDue_sample.mp due))).symm
  | holdEnds hst due =>
    rw [hst]
    exact (if_pos (holdDue_sample.mp due)).symm
  | holdGoesOn hst due =>
    rw [hst]
    exact (if_neg (Nat.not_le.mpr (not_holdDue_sample.mp due))).symm
  | nextBit hst hm =>
    rw [hst]
    exact (if_pos hm).symm
  | callEnds hst hm he | nextByte hst hm he =>
    rw [incMod_ptr h (running_of_st hst (by decide) (by decide))] at he
    simp [hst, hm, he]

/-- A command that is taken leads to `DONE` on an empty buffer and to `AWAIT_SLOT` otherwise (R80). -/
theorem accept_st {k : Command} (hfits : k.fits s.cfg) (h : accept k s = .next t) :
    (k.a0 = k.a1 ∧ t.st = .done) ∨ (k.a0 < k.a1 ∧ t.st = .awaitSlot) := by
  obtain ⟨h0, h1, -⟩ := latchedWhole_of_fits hfits
  obtain ⟨-, hle, -, hstart⟩ := accept_next h
  rw [h0, h1] at hle
  obtain ⟨he, rfl⟩ | ⟨hne, b, -, rfl⟩ := startCall_next hstart
  · rw [newCall_ptr, newCall_endAddr, h0, h1] at he
    exact .inl ⟨he, rfl⟩
  · rw [newCall_ptr, newCall_endAddr, h0, h1] at hne
    exact .inr ⟨by omega, rfl⟩

theorem not_running_of_accepting (h : s.accepting = true) : ¬ s.running := fun hr => by
  simp [not_accepting_of_running hr] at h

/-- An operation of a component runs on a bench between calls only, and leaves the state register alone (log 11). -/
theorem issuedStep_component {r : Request} (h : IssuedStep s r t) (hr : r.format ≠ .cmd) :
    s.cfg.bench = true ∧ ¬ s.running ∧ t.st = s.st := by
  cases h with
  | command => exact absurd rfl hr
  | driver _ _ _ _ hb ha | duration _ _ hb ha | now _ hb ha | symbol _ _ hb ha =>
    exact ⟨hb, not_running_of_accepting ha, by simp⟩

/-- Settles O20: a step takes a command, takes an operation of a component, or is a row of the table. -/
theorem loopTransitionsAreThoseOfTheTable : Obligations.LoopTransitionsAreThoseOfTheTable := by
  unfold Obligations.LoopTransitionsAreThoseOfTheTable
  intro s t h hs
  split
  · next w hq =>
    refine ⟨not_running_of_accepting (step_issued_accepting hq hs), ?_⟩
    cases step_issued hq hs with
    | command _ _ ha => exact accept_st (s := taken s) (fits_commandOfWord ..) ha
  · next r hcmd hq =>
    refine issuedStep_component (step_issued hq hs) ?_
    cases r with
    | cmd w => exact absurd rfl (hcmd w)
    | drv | dur | clk | sym => simp [Request.format]
  · next hq => exact loopStep_st h (step_quiet hq hs)

end Sys2Proof.Machine

/-! ### The first slot of a call is not waited for (R80, R81, R87) -/

namespace Sys2Proof.Machine

variable {k : Command} {s s0 t : State}

/-- A difference of counter values grows by the ticks that pass (R122). -/
theorem subMod_add_left (w c g b : Nat) : subMod w ((c + g) % 2 ^ w) b = (subMod w c b + g) % 2 ^ w := by
  rw [subMod_eq, subMod_eq, Nat.mod_mod, Nat.add_mod_mod, Nat.mod_add_mod, Nat.add_right_comm, Nat.add_mod_mod,
    Nat.add_right_comm, Nat.add_assoc]

/-- The baseline a period ago lies a period back (R80). -/
theorem subMod_subMod (w c p : Nat) : subMod w c (subMod w c p) = p % 2 ^ w := by
  have hcancel : BitVec.ofNat w c - BitVec.ofNat w (subMod w c p) = BitVec.ofNat w p := by
    rw [subMod, BitVec.ofNat_toNat, BitVec.setWidth_eq, sub_sub_cancel]
  rw [subMod, hcancel, BitVec.toNat_ofNat]

/-- With a primed baseline the test of R81 sees the period and the ticks since the priming sample. -/
theorem subMod_primed (w c g p : Nat) : subMod w ((c + g) % 2 ^ w) (subMod w c p) = (p + g) % 2 ^ w := by
  rw [subMod_add_left, subMod_subMod, Nat.mod_add_mod]

/-- A call that has been taken is started, or over at once with an empty buffer (R80, R146). -/
theorem Started.cases (h : Started k s0 s) :
    (k.a0 = k.a1 ∧ s = enter .done (newCall k s0)) ∨
    (k.a0 < k.a1 ∧ ∃ b, s0.mem.read k.a0 = some b ∧ s = startedCall k b s0) := by
  obtain ⟨h0, h1, -⟩ := latchedWhole_of_fits h.fits
  have haccept := h.accepted
  rw [exec_command] at haccept
  obtain ⟨-, hle, -, hstart⟩ := accept_next haccept
  rw [h0, h1] at hle
  obtain ⟨he, rfl⟩ | ⟨hne, b, hb, rfl⟩ := startCall_next hstart
  · rw [newCall_ptr, newCall_endAddr, h0, h1] at he
    exact .inl ⟨he, rfl⟩
  · rw [newCall_ptr, newCall_endAddr, h0, h1] at hne
    rw [newCall_ptr, newCall_mem, h0] at hb
    exact .inr ⟨by omega, b, hb, rfl⟩

theorem Started.request_eq (h : Started k s0 s) : s.request = none := by
  obtain ⟨-, rfl⟩ | ⟨-, b, -, rfl⟩ := h.cases <;> exact h.quiet

/-- Settles O40: the test sees `PER` and the ticks since the priming sample, so at least `PER` unless that wraps. -/
theorem firstSlotIsNotWaitedFor : Obligations.FirstSlotIsNotWaitedFor := by
  unfold Obligations.FirstSlotIsNotWaitedFor
  intro k s0 s t hs hlt hstep hwrap
  obtain ⟨hempty, -⟩ | ⟨-, b, -, rfl⟩ := hs.cases
  · exact absurd hempty hlt.ne
  have hexec : execAwaitSlot (startedCall k b s0) = .next t := by rwa [step_of_none hs.request_eq] at hstep
  have hper : (startedCall k b s0).per = k.a5 := (latched_startedCall hs.fits).per
  have hseen : subMod s0.cfg.ccw (sample (startedCall k b s0)).cc (startedCall k b s0).tprev
      = (k.a5 + (startedCall k b s0).gap) % 2 ^ s0.cfg.ccw := by
    rw [startedCall_tprev hs.fits, ← subMod_primed, cc_sample_eq]
    rfl
  have hideal (hi : s0.cfg.profile = .ideal) : (startedCall k b s0).gap = 0 := by
    rw [gap_of_ideal (s := startedCall k b s0) hi]
    exact gmin_of_first rfl
  obtain ⟨-, rfl⟩ | ⟨due, rfl⟩ := execAwaitSlot_next hexec
  · exact ⟨rfl, rfl, fun hi => by simp [hideal hi]⟩
  · have hfail : (k.a5 + (startedCall k b s0).gap) % 2 ^ s0.cfg.ccw < k.a5 := by
      rw [← hseen]
      exact hper ▸ not_slotDue_sample.mp due
    rw [pollAgain_t, sample_t, Nat.add_sub_cancel_left] at hwrap
    rw [Nat.mod_eq_of_lt (by omega)] at hfail
    omega

end Sys2Proof.Machine

/-! ### A call goes through its bits in order (R22, R53, R66, R85) -/

namespace Sys2Proof.Machine

variable {s t : State} {a0 j : Nat}

/-- The block is at bit `j` of a buffer that starts at `a0`, its high bits first (R22, R66). -/
structure AtBit (a0 j : Nat) (s : State) : Prop where
  ptr : s.ptr = a0 + j / 8
  mask : s.mask = 1#8 <<< (7 - j % 8)

/-- The mask moves on to the bit below, and past the lowest one it is empty (R85). -/
theorem shift_mask_of_atBit (h : AtBit a0 j s) :
    (j % 8 ≠ 7 ∧ s.mask >>> 1 ≠ 0 ∧ s.mask >>> 1 = 1#8 <<< (7 - (j + 1) % 8)) ∨ (j % 8 = 7 ∧ s.mask >>> 1 = 0) := by
  have hshift : ∀ i < 7, (1#8 <<< (7 - i)) >>> 1 ≠ 0 ∧ (1#8 <<< (7 - i)) >>> 1 = 1#8 <<< (7 - (i + 1)) := by decide
  rw [h.mask]
  by_cases hj : j % 8 = 7
  · right
    simp [hj]
  · left
    have hnext : (j + 1) % 8 = j % 8 + 1 := by omega
    rw [hnext]
    exact ⟨hj, hshift _ (by omega)⟩

/-- Every row of R89's table but those of `ADVANCE` stays at the bit. -/
theorem AtBit.of_loopStep (h : AtBit a0 j s) (hs : LoopStep s t) (hst : s.st ≠ .advance) : AtBit a0 j t := by
  obtain ⟨hptr, hmask, -⟩ := loopStep_slot hs hst
  exact ⟨hptr.trans h.ptr, hmask.trans h.mask⟩

/-- `ADVANCE` goes to the next bit, and ends the call exactly past the last bit of the buffer (R85). -/
theorem AtBit.advance (h : AtBit a0 j s) (hinv : s.Inv) (hs : LoopStep s t) (hst : s.st = .advance) :
    AtBit a0 (j + 1) t ∧ (t.st = .awaitSlot ∨ t.st = .done ∧ t.ptr = s.endAddr ∧ (j + 1) % 8 = 0) := by
  have hinc := incMod_ptr hinv (running_of_st hst (by decide) (by decide))
  have hptr := h.ptr
  cases hs with
  | nextBit _ hm =>
    obtain ⟨hj, -, hmask⟩ | ⟨-, hzero⟩ := shift_mask_of_atBit h
    · exact ⟨⟨by simp only [enter_ptr, shiftMask_ptr]; omega, hmask⟩, .inl rfl⟩
    · exact absurd hzero hm
  | callEnds _ hm he | nextByte _ hm he =>
    obtain ⟨-, hne, -⟩ | ⟨hj, -⟩ := shift_mask_of_atBit h
    · exact absurd hm hne
    have hzero : (j + 1) % 8 = 0 := by omega
    refine ⟨⟨?_, ?_⟩, ?_⟩
    · simp only [enter_ptr, loadByte_ptr, nextAddress_ptr, shiftMask_ptr, shiftMask_cfg, hinc]
      omega
    · rw [hzero]
      rfl
    · simp [he, hzero]
  | rest h | slotStarts h | slotNotDue h | asserts h | holdEnds h | holdGoesOn h | deasserts h => simp [hst] at h

/-- The bits of a running call lie inside its buffer. -/
theorem AtBit.lt_end (h : AtBit a0 j s) (hinv : s.Inv) (hr : s.running) : a0 + j / 8 < s.endAddr :=
  h.ptr ▸ hinv.in_buffer hr

/-- A well-formed state is at a bit of its current byte (R22). -/
theorem exists_atBit (h : s.Inv) : ∃ j < 8, AtBit s.ptr j s := by
  obtain ⟨i, hi, hmask⟩ := h.mask_oneHot
  refine ⟨7 - i, by omega, by omega, ?_⟩
  rw [hmask]
  congr 1
  omega

end Sys2Proof.Machine

/-! ### Every wait ends and the call reaches its end (R91, R127) -/

namespace Sys2Proof.Machine

variable {s t u : State} {G a0 j : Nat}

/-- A call in progress, with nothing issued, whose re-polls come at most `G` ticks apart, too few for a wait to run
past a wrap, and the rest of whose buffer can be read. -/
structure Live (G : Nat) (s : State) : Prop where
  inv : s.Inv
  running : s.running
  quiet : s.request = none
  gap_le : ∀ u : State, u.cfg = s.cfg → u.repoll = true → u.gap ≤ G
  sh_fits : s.sh + G ≤ 2 ^ s.cfg.ccw
  lh_fits : s.lh + G ≤ 2 ^ s.cfg.ccw
  per_fits : s.per + G ≤ 2 ^ s.cfg.ccw
  readable : s.mem.readable s.ptr s.endAddr

theorem loopStep_quiet (h : LoopStep s t) : t.request = s.request := by
  cases h <;> simp

theorem loopStep_clock (h : LoopStep s t) : ClockAdvances s t := by
  cases h <;> simp [ClockAdvances]

/-- The pointer does not move back while the call runs (R53). -/
theorem ptr_le_of_loopStep (hinv : s.Inv) (hr : s.running) (h : LoopStep s t) : s.ptr ≤ t.ptr := by
  have hinc := incMod_ptr hinv hr
  cases h with
  | callEnds | nextByte => simp [hinc]
  | _ => simp

/-- What makes a call end stays true as long as it runs. -/
theorem Live.of_loopStep (h : Live G s) (hs : LoopStep s t) (hr : t.running) : Live G t := by
  obtain ⟨-, -, -, hend, hsh, hlh, hper⟩ := loopStep_latches hs
  obtain ⟨-, hcfg, -⟩ := loopStep_clock hs
  refine ⟨inv_loopStep h.inv hs, hr, (loopStep_quiet hs).trans h.quiet, fun u hu => h.gap_le u (hu.trans hcfg),
    ?_, ?_, ?_, fun a ha hlt => ?_⟩
  · rw [hsh, hcfg]
    exact h.sh_fits
  · rw [hlh, hcfg]
    exact h.lh_fits
  · rw [hper, hcfg]
    exact h.per_fits
  · rw [loopStep_mem hs]
    exact h.readable a ((ptr_le_of_loopStep h.inv h.running hs).trans ha) (hend ▸ hlt)

/-- The call goes on from `s` to `t` within one bit of its buffer. -/
structure GoesOn (G : Nat) (s t : State) : Prop where
  reaches : Reaches s t
  live : Live G t
  ptr : t.ptr = s.ptr
  mask : t.mask = s.mask
  endAddr : t.endAddr = s.endAddr

theorem GoesOn.trans (h : GoesOn G s u) (h' : GoesOn G u t) : GoesOn G s t :=
  ⟨h.reaches.trans h'.reaches, h'.live, h'.ptr.trans h.ptr, h'.mask.trans h.mask, h'.endAddr.trans h.endAddr⟩

theorem Live.goesOn (h : Live G s) (hs : LoopStep s t) (hst : s.st ≠ .advance) (hr : t.running) : GoesOn G s t := by
  obtain ⟨hptr, hmask, -⟩ := loopStep_slot hs hst
  obtain ⟨-, -, -, hend, -⟩ := loopStep_latches hs
  exact ⟨.single (hs.step h.quiet), h.of_loopStep hs hr, hptr, hmask, hend⟩

/-- One of the two waits of the loop: the state that waits, the ticks it waits for, the register it counts from, and
what is done when the wait is over (R81, R83). -/
structure Wait where
  place : LoopState
  needed : State → Nat
  since : State → Nat
  next : LoopState
  leave : State → State

/-- `AWAIT_SLOT` (R81). -/
def slotWait : Wait := ⟨.awaitSlot, State.per, State.tprev, .assert, startSlot⟩

/-- `HOLD` (R83). -/
def holdWait : Wait := ⟨.hold, State.currentDuration, State.tstart, .deassert, enter .deassert⟩

/-- The ticks the block sees since the register was written (R122). -/
def Wait.seen (w : Wait) (s : State) : Nat := subMod s.cfg.ccw s.cc (w.since s)

/-- The two waits follow one pattern: a sample, a test, and a further poll with the same question. -/
structure Wait.Polls (w : Wait) : Prop where
  leaves : ∀ {s : State}, s.st = w.place → w.needed s ≤ w.seen (sample s) → LoopStep s (w.leave (sample s))
  goesOn : ∀ {s : State}, s.st = w.place → w.seen (sample s) < w.needed s → LoopStep s (pollAgain w.place (sample s))
  leave_st : ∀ s : State, (w.leave s).st = w.next
  needed_poll : ∀ s : State, w.needed (pollAgain w.place (sample s)) = w.needed s
  since_poll : ∀ s : State, w.since (pollAgain w.place (sample s)) = w.since s
  since_sample : ∀ s : State, w.since (sample s) = w.since s
  place_running : w.place ≠ .idle ∧ w.place ≠ .done ∧ w.place ≠ .advance
  next_running : w.next ≠ .idle ∧ w.next ≠ .done
  needed_fits : ∀ {G : Nat} {s : State}, Live G s → w.needed s + G ≤ 2 ^ s.cfg.ccw

theorem slotWait_polls : slotWait.Polls where
  leaves hst hdue := .slotStarts hst (slotDue_sample.mpr hdue)
  goesOn hst hnot := .slotNotDue hst (not_slotDue_sample.mpr hnot)
  leave_st _ := rfl
  needed_poll _ := rfl
  since_poll _ := rfl
  since_sample _ := rfl
  place_running := by decide
  next_running := by decide
  needed_fits h := h.per_fits

theorem holdWait_polls : holdWait.Polls where
  leaves hst hdue := .holdEnds hst (holdDue_sample.mpr hdue)
  goesOn hst hnot := .holdGoesOn hst (not_holdDue_sample.mpr hnot)
  leave_st _ := rfl
  needed_poll _ := rfl
  since_poll _ := rfl
  since_sample _ := rfl
  place_running := by decide
  next_running := by decide
  needed_fits {G s} h := by
    change s.duration s.currentBit + G ≤ _
    cases s.currentBit with
    | false => exact h.sh_fits
    | true => exact h.lh_fits

variable {w : Wait}

/-- A failed test changes nothing of what the block sees. -/
theorem Wait.Polls.seen_poll (hw : w.Polls) (s : State) :
    w.seen (pollAgain w.place (sample s)) = w.seen (sample s) := by
  rw [Wait.seen, Wait.seen, hw.since_poll, hw.since_sample]
  rfl

/-- After a poll either the wait is over or it has been polled in vain. -/
theorem Wait.Polls.poll (hw : w.Polls) (h : Live G s) (hst : s.st = w.place) :
    ∃ t, GoesOn G s t ∧ (t.st = w.next ∨
      t = pollAgain w.place (sample s) ∧ w.seen (sample s) < w.needed s) := by
  obtain ⟨hidle, hdone, hadvance⟩ := hw.place_running
  have hne : s.st ≠ .advance := hst ▸ hadvance
  by_cases hdue : w.needed s ≤ w.seen (sample s)
  · have hnext := hw.leave_st (sample s)
    refine ⟨_, h.goesOn (hw.leaves hst hdue) hne ?_, .inl hnext⟩
    exact running_of_st hnext hw.next_running.1 hw.next_running.2
  · have hlt := Nat.lt_of_not_le hdue
    exact ⟨_, h.goesOn (hw.goesOn hst hlt) hne (running_of_st rfl hidle hdone), .inr ⟨rfl, hlt⟩⟩

/-- A re-poll of a wait that is not over sees at least a tick more than the poll before it, with no wrap. -/
theorem Wait.Polls.seen_grows (hw : w.Polls) (h : Live G s) (hr : s.repoll = true) (hlt : w.seen s < w.needed s) :
    w.seen s + 1 ≤ w.seen (sample s) := by
  have hgap := h.gap_le s rfl hr
  have hfits := hw.needed_fits h
  have hone := one_le_gap_of_repoll h.inv hr
  have hseen : w.seen (sample s) = (w.seen s + s.gap) % 2 ^ s.cfg.ccw := by
    rw [Wait.seen, hw.since_sample, cc_sample_eq]
    exact subMod_add_left ..
  rw [hseen, Nat.mod_eq_of_lt (by omega)]
  omega

/-- A wait that has been polled in vain ends: with each poll fewer ticks are missing. -/
theorem Wait.Polls.ends_of_polled (hw : w.Polls) {n : Nat} (h : Live G s) (hst : s.st = w.place)
    (hr : s.repoll = true) (hlt : w.seen s < w.needed s) (hn : w.needed s ≤ w.seen s + n) :
    ∃ t, GoesOn G s t ∧ t.st = w.next := by
  induction n generalizing s with
  | zero => omega
  | succ n ih =>
    have hgrows := hw.seen_grows h hr hlt
    obtain ⟨u, hu, hnext | ⟨rfl, hmissing⟩⟩ := hw.poll h hst
    · exact ⟨u, hu, hnext⟩
    · have hseen := hw.seen_poll s
      have hneeded := hw.needed_poll s
      obtain ⟨t, ht, hnext⟩ := ih hu.live rfl rfl (by omega) (by omega)
      exact ⟨t, hu.trans ht, hnext⟩

/-- R127: a wait ends, whatever its register holds. -/
theorem Wait.Polls.ends (hw : w.Polls) (h : Live G s) (hst : s.st = w.place) : ∃ t, GoesOn G s t ∧ t.st = w.next := by
  obtain ⟨u, hu, hnext | ⟨rfl, hmissing⟩⟩ := hw.poll h hst
  · exact ⟨u, hu, hnext⟩
  · have hlt : w.seen (pollAgain w.place (sample s)) < w.needed (pollAgain w.place (sample s)) := by
      rwa [hw.seen_poll, hw.needed_poll]
    obtain ⟨t, ht, hnext⟩ := hw.ends_of_polled (n := w.needed (pollAgain w.place (sample s))) hu.live rfl rfl hlt
      (by omega)
    exact ⟨t, hu.trans ht, hnext⟩

theorem Live.advances_of_deassert (h : Live G s) (hst : s.st = .deassert) : ∃ t, GoesOn G s t ∧ t.st = .advance :=
  ⟨_, h.goesOn (.deasserts hst) (by simp [hst]) (running_of_st (x := .advance) rfl (by decide) (by decide)), rfl⟩

theorem Live.advances_of_hold (h : Live G s) (hst : s.st = .hold) : ∃ t, GoesOn G s t ∧ t.st = .advance := by
  obtain ⟨u, hu, hnext⟩ := holdWait_polls.ends h hst
  obtain ⟨t, ht, hadvance⟩ := hu.live.advances_of_deassert hnext
  exact ⟨t, hu.trans ht, hadvance⟩

theorem Live.advances_of_assert (h : Live G s) (hst : s.st = .assert) : ∃ t, GoesOn G s t ∧ t.st = .advance := by
  have hu := h.goesOn (.asserts hst) (by simp [hst]) (running_of_st (x := .hold) rfl (by decide) (by decide))
  obtain ⟨t, ht, hadvance⟩ := hu.live.advances_of_hold rfl
  exact ⟨t, hu.trans ht, hadvance⟩

/-- From every place in its slot the call comes to `ADVANCE`. -/
theorem Live.advances (h : Live G s) : ∃ t, GoesOn G s t ∧ t.st = .advance := by
  cases hst : s.st with
  | idle => exact absurd hst h.running.1
  | done => exact absurd hst h.running.2
  | awaitSlot =>
    obtain ⟨u, hu, hnext⟩ := slotWait_polls.ends h hst
    obtain ⟨t, ht, hadvance⟩ := hu.live.advances_of_assert hnext
    exact ⟨t, hu.trans ht, hadvance⟩
  | assert => exact h.advances_of_assert hst
  | hold => exact h.advances_of_hold hst
  | deassert => exact h.advances_of_deassert hst
  | advance => exact ⟨s, ⟨.refl, h, rfl, rfl, rfl⟩, hst⟩

/-- `ADVANCE` is not stuck: the next byte of the buffer can be read (R85, R147). -/
theorem Live.exists_loopStep_of_advance (h : Live G s) (hst : s.st = .advance) : ∃ t, LoopStep s t := by
  by_cases hm : s.mask >>> 1 = 0
  · by_cases he : incMod s.cfg.aw s.ptr = s.endAddr
    · exact ⟨_, .callEnds hst hm he⟩
    · obtain ⟨hafter, hbefore⟩ := nextAddress_in_rest h.inv h.running he
      obtain ⟨b, hb⟩ := h.readable _ hafter.le hbefore
      exact ⟨_, .nextByte hst hm he b hb⟩
  · exact ⟨_, .nextBit hst hm⟩

/-- The call ends: bit by bit, at most as many as its buffer has left. -/
theorem Live.reaches_done {n : Nat} (h : Live G s) (hat : AtBit a0 j s) (hn : 8 * (s.endAddr - a0) ≤ j + n) :
    ∃ t, Reaches s t ∧ t.st = .done ∧ t.ptr = s.endAddr := by
  induction n generalizing s j with
  | zero =>
    have hlt := hat.lt_end h.inv h.running
    omega
  | succ n ih =>
    obtain ⟨u, hu, hst⟩ := h.advances
    obtain ⟨v, hv⟩ := hu.live.exists_loopStep_of_advance hst
    have hstep : Reaches s v := hu.reaches.tail (hv.step hu.live.quiet)
    obtain ⟨-, -, -, hend, -⟩ := loopStep_latches hv
    have hat' : AtBit a0 j u := ⟨hu.ptr.trans hat.ptr, hu.mask.trans hat.mask⟩
    obtain ⟨hnext, hwait | ⟨hdone, hptr, -⟩⟩ := hat'.advance hu.live.inv hv hst
    · have hlive := hu.live.of_loopStep hv (running_of_st hwait (by decide) (by decide))
      have hend' : v.endAddr = s.endAddr := hend.trans hu.endAddr
      obtain ⟨t, ht, hdone, hptr⟩ := ih hlive hnext (by rw [hend']; omega)
      exact ⟨t, hstep.trans ht, hdone, hptr.trans hend'⟩
    · exact ⟨v, hstep, hdone, hptr.trans hu.endAddr⟩

/-- Settles O50: a stall bound is a bound of the re-polls, and the call ends bit by bit. -/
theorem runningCallReachesDoneUnderAStallBound : Obligations.RunningCallReachesDoneUnderAStallBound := by
  unfold Obligations.RunningCallReachesDoneUnderAStallBound
  intro s J h hr hq hJ hsh hlh hper hread
  have hlive : Live J s := ⟨h, hr, hq, fun u hu _ => gap_le_of_bounded (hu ▸ hJ), hsh.le, hlh.le, hper.le, hread⟩
  obtain ⟨j, -, hat⟩ := exists_atBit h
  exact hlive.reaches_done hat (Nat.le_add_left ..)

end Sys2Proof.Machine

/-! ### The course of a call: its writes, one after the other, and when each is made (R92 to R95) -/

namespace Sys2Proof.Machine

/-- What the writes of a call are measured by: the command, the parameters, the counter's origin, the memory, the time
of the priming sample, and two bounds on lateness: `slack` ticks of a test that is polled again, `delay` ticks of the
first poll of a wait. -/
structure Course where
  k : Command
  cfg : Config
  c0 : Nat
  mem : Memory
  t0 : Nat
  slack : Nat
  delay : Nat

variable {s t : State} {C : Course} {j : Nat} {a d e f : TraceEntry} {tr : List TraceEntry}

/-- The duration of slot `j` (R93). -/
def Course.dur (C : Course) (j : Nat) : Nat := C.k.slotDuration C.mem j

/-- The samples come within the bounds of lateness, and no wait reaches a wrap (R94, R127). -/
structure Course.OnTime (C : Course) : Prop where
  gap_le : ∀ s : State, s.cfg = C.cfg → s.gap ≤ if s.repoll then C.slack + 1 else C.delay
  period_fits : C.k.a5 + C.slack + C.delay < 2 ^ C.cfg.ccw
  pulse_fits : ∀ j, C.dur j + C.slack + C.delay < 2 ^ C.cfg.ccw
  delay_le : ∀ j, C.delay ≤ C.dur j + C.slack

/-- Write `d` may end the pulse of slot `j` that write `a` has started (R83, R93, R94). -/
def Course.Wide (C : Course) (j : Nat) (a d : TraceEntry) : Prop :=
  a.t + C.dur j ≤ d.t ∧ (C.OnTime → d.t ≤ a.t + C.dur j + C.slack)

/-- Write `f` may start the slot after the pulse from `a` to `d` (R81, R93, R94). -/
def Course.Spaced (C : Course) (a d f : TraceEntry) : Prop :=
  a.t + C.k.a5 ≤ f.t ∧ d.t ≤ f.t ∧ (C.OnTime → f.t ≤ max (a.t + C.k.a5 + C.slack) (d.t + C.delay))

/-- Write `e` may come next after the writes `tr` of the call: an assert and a de-assert in turn, on the line of the
call, each in its time (R92 to R94). -/
structure Course.Allows (C : Course) (tr : List TraceEntry) (e : TraceEntry) : Prop where
  port : e.port = bankOf C.k.alt
  bit : e.bit = C.k.lineBit C.cfg
  level : e.level = xor (decide (tr.length % 2 = 0)) C.k.inv
  first : tr = [] → C.t0 + C.cfg.wlat ≤ e.t ∧ (C.OnTime → e.t ≤ C.t0 + C.cfg.wlat + C.delay)
  spaced : ∀ j a d, tr.length = 2 * (j + 1) → tr[2 * j]? = some a → tr[2 * j + 1]? = some d → C.Spaced a d e
  wide : ∀ j a, tr.length = 2 * j + 1 → tr[2 * j]? = some a → C.Wide j a e

/-- The writes of a call up to some moment: each was allowed after those before it. -/
inductive Course.Writes (C : Course) : List TraceEntry → Prop
  | nil : C.Writes []
  | snoc {tr : List TraceEntry} {e : TraceEntry} (h : C.Writes tr) (he : C.Allows tr e) : C.Writes (tr ++ [e])

theorem Course.Writes.allows (h : C.Writes tr) {n : Nat} (he : tr[n]? = some e) : C.Allows (tr.take n) e := by
  induction h with
  | nil => simp at he
  | @snoc tr f _ hf ih =>
    obtain hlt | hge := Nat.lt_or_ge n tr.length
    · rw [List.getElem?_append_left hlt] at he
      rw [List.take_append_of_le_length hlt.le]
      exact ih he
    · have hn : n = tr.length := by
        have hlen := (List.getElem?_eq_some_iff.mp he).1
        rw [List.length_append, List.length_singleton] at hlen
        omega
      subst hn
      obtain rfl : f = e := by simpa using he
      simpa using hf

theorem Course.Writes.wide (h : C.Writes tr) (ha : tr[2 * j]? = some a) (hd : tr[2 * j + 1]? = some d) :
    C.Wide j a d := by
  have hlen := (List.getElem?_eq_some_iff.mp hd).1
  refine (h.allows hd).wide j a ?_ ?_
  · rw [List.length_take]
    omega
  · rwa [List.getElem?_take_of_lt (by omega)]

theorem Course.Writes.spaced (h : C.Writes tr) (ha : tr[2 * j]? = some a) (hd : tr[2 * j + 1]? = some d)
    (hf : tr[2 * (j + 1)]? = some f) : C.Spaced a d f := by
  have hlen := (List.getElem?_eq_some_iff.mp hf).1
  refine (h.allows hf).spaced j a d ?_ ?_ ?_
  · rw [List.length_take]
    omega
  · rwa [List.getElem?_take_of_lt (by omega)]
  · rwa [List.getElem?_take_of_lt (by omega)]

/-! The registers that remember when a slot started -/

/-- The stamp of a write made now (R31). -/
def State.now (s : State) : Nat := s.t + s.cfg.wlat

theorem lineEntry_t (l : Bool) : (s.lineEntry l).t = s.now := rfl

theorem sample_now : (sample s).now = s.now + s.gap := by
  simp only [State.now, sample_t, sample_cfg]
  omega

/-- Register value `r` is the counter of the sample at which write `a` was made: counted from it, the block sees the
ticks since that write, modulo a wrap (R17, R18, R122). -/
structure Marks (s : State) (r : Nat) (a : TraceEntry) : Prop where
  past : a.t ≤ s.now
  seen : subMod s.cfg.ccw s.cc r = (s.now - a.t) % 2 ^ s.cfg.ccw

theorem Marks.sample {r : Nat} (h : Marks s r a) : Marks (sample s) r a := by
  have hpast := h.past
  refine ⟨?_, ?_⟩
  · rw [sample_now]
    omega
  · have hsum : s.now + s.gap - a.t = s.now - a.t + s.gap := by omega
    rw [sample_cfg, cc_sample_eq, subMod_add_left, h.seen, sample_now, Nat.mod_add_mod, hsum]

theorem subMod_self (w c : Nat) : subMod w c c = 0 := by
  simp [subMod]

/-- What a register sees is never more than the ticks that have passed (R122). -/
theorem Marks.add_le_now {r n : Nat} (h : Marks s r a) (hn : n ≤ subMod s.cfg.ccw s.cc r) : a.t + n ≤ s.now := by
  have hpast := h.past
  have hmod := Nat.mod_le (s.now - a.t) (2 ^ s.cfg.ccw)
  rw [h.seen] at hn
  omega

/-- Below a wrap it is just the ticks that have passed (R122). -/
theorem Marks.now_lt_add {r n : Nat} (h : Marks s r a) (hn : subMod s.cfg.ccw s.cc r < n)
    (hwrap : s.now < a.t + 2 ^ s.cfg.ccw) : s.now < a.t + n := by
  have hpast := h.past
  rw [h.seen, Nat.mod_eq_of_lt (by omega)] at hn
  omega

/-- A wait for `n` ticks after write `a`: polled in vain, or not polled yet and no time passed since write `f`. -/
def State.Polled (s : State) (n : Nat) (a f : TraceEntry) : Prop := if s.repoll then s.now < a.t + n else s.now = f.t

/-- The next poll of a wait is late by the bounds at most. -/
theorem Course.OnTime.sample_now_le {n : Nat} (hC : C.OnTime) (hcfg : s.cfg = C.cfg) (h : s.Polled n a f) :
    (sample s).now ≤ max (a.t + n + C.slack) (f.t + C.delay) := by
  have hgap := hC.gap_le s hcfg
  unfold State.Polled at h
  rw [sample_now]
  cases hr : s.repoll with
  | true =>
    simp only [hr, if_true] at h hgap
    omega
  | false =>
    simp only [hr, Bool.false_eq_true, if_false] at h hgap
    omega

/-! The phases of a slot -/

/-- The wait for slot `j`: for slot 0 from the primed baseline, for a later slot from the start of the one before. -/
inductive Course.SlotWait (C : Course) (s : State) : Nat → Prop
  | first (past : C.t0 ≤ s.t) (seen : subMod s.cfg.ccw s.cc s.tprev = (s.per + (s.t - C.t0)) % 2 ^ s.cfg.ccw)
      (fresh : C.OnTime → s.t = C.t0 ∧ s.repoll = false) : C.SlotWait s 0
  | later (j : Nat) (a d : TraceEntry) (ha : s.wtrace[2 * j]? = some a) (hd : s.wtrace[2 * j + 1]? = some d)
      (marks : Marks s s.tprev a) (ended : d.t ≤ s.now) (polled : C.OnTime → s.Polled C.k.a5 a d) :
      C.SlotWait s (j + 1)

/-- `AWAIT_SLOT` before slot `j`. -/
structure Course.Waits (C : Course) (j : Nat) (s : State) : Prop where
  length : s.wtrace.length = 2 * j
  wait : C.SlotWait s j

/-- `ASSERT` in slot `j`: the slot has started with the latest sample. -/
structure Course.Starts (C : Course) (j : Nat) (s : State) : Prop where
  length : s.wtrace.length = 2 * j
  tstart : s.tstart = s.cc
  allowed : C.Allows s.wtrace (s.lineEntry (!s.inv))

/-- The pulse of slot `j` was started by write `a`, and is not over. -/
structure Course.Pulse (C : Course) (j : Nat) (s : State) (a : TraceEntry) : Prop where
  length : s.wtrace.length = 2 * j + 1
  start : s.wtrace[2 * j]? = some a
  marks : Marks s s.tstart a

/-- `ADVANCE` after slot `j`, whose writes were `a` and `d`, the latter just now. -/
structure Course.Moves (C : Course) (j : Nat) (s : State) (a d : TraceEntry) : Prop where
  length : s.wtrace.length = 2 * (j + 1)
  start : s.wtrace[2 * j]? = some a
  stop : s.wtrace[2 * j + 1]? = some d
  marks : Marks s s.tstart a
  just : d.t = s.now

/-- `DONE` after `j` slots: the whole buffer is sent, and no time has passed since the last write. -/
structure Course.Over (C : Course) (j : Nat) (s : State) : Prop where
  length : s.wtrace.length = 2 * j
  whole : j % 8 = 0
  ptr : s.ptr = s.endAddr
  just : ∀ d, s.wtrace.getLast? = some d → d.t = s.now

/-- Where the call is in slot `j`. -/
def Course.Phase (C : Course) (j : Nat) (s : State) : Prop :=
  match s.st with
  | .idle => False
  | .awaitSlot => C.Waits j s
  | .assert => C.Starts j s
  | .hold => ∃ a, C.Pulse j s a ∧ (C.OnTime → s.Polled (C.dur j) a a)
  | .deassert => ∃ a, C.Pulse j s a ∧ C.Allows s.wtrace (s.lineEntry s.inv)
  | .advance => ∃ a d, C.Moves j s a d
  | .done => C.Over j s

/-- The state belongs to the call: nothing is issued, and what is fixed during a call is the call's. -/
structure Course.Has (C : Course) (s : State) : Prop where
  inv : s.Inv
  quiet : s.request = none
  cfg : s.cfg = C.cfg
  c0 : s.c0 = C.c0
  mem : s.mem = C.mem
  latched : Latched C.k s

theorem Course.Has.of_loopStep (h : C.Has s) (hs : LoopStep s t) : C.Has t := by
  obtain ⟨halt, hinv, hpin, hend, hsh, hlh, hper⟩ := loopStep_latches hs
  obtain ⟨hc0, hcfg, -⟩ := loopStep_clock hs
  refine ⟨inv_loopStep h.inv hs, (loopStep_quiet hs).trans h.quiet, hcfg.trans h.cfg, hc0.trans h.c0,
    (loopStep_mem hs).trans h.mem, ?_⟩
  exact ⟨halt.trans h.latched.alt, hinv.trans h.latched.inv, fun ha => hpin.trans (h.latched.pin ha),
    hend.trans h.latched.endAddr, hsh.trans h.latched.sh, hlh.trans h.latched.lh, hper.trans h.latched.per⟩

/-- The current bit is that of slot `j` (R66, R116). -/
theorem Course.Has.currentDuration_eq (h : C.Has s) (hr : s.running) (hat : AtBit C.k.a0 j s) :
    s.currentDuration = C.dur j := by
  have hbit : s.currentBit = frameBit C.mem C.k.a0 j := by
    rw [currentBitIsTheBitTheMaskSelects s _ (by omega) hat.mask, frameBit, ← hat.ptr, ← h.mem,
      h.inv.current_byte hr]
  rw [State.currentDuration, State.duration, hbit, h.latched.lh, h.latched.sh]
  rfl

/-- A write to the line of the call is for its bank and its bit (R15, R31). -/
theorem Course.Has.lineEntry_bit (h : C.Has s) (l : Bool) : (s.lineEntry l).bit = C.k.lineBit C.cfg := by
  simp only [State.lineEntry, State.entry, Command.lineBit, h.latched.alt, h.cfg]
  cases halt : C.k.alt with
  | false => simpa using h.latched.pin halt
  | true => rfl

theorem Course.Has.lineEntry_port (h : C.Has s) (l : Bool) : (s.lineEntry l).port = bankOf C.k.alt :=
  congrArg bankOf h.latched.alt

/-- The test of R81 passes in time, so the slot may start. -/
theorem Course.Waits.allows (hw : C.Waits j s) (h : C.Has s)
    (hdue : (sample s).slotDue = true) : C.Allows s.wtrace ((sample s).lineEntry (!s.inv)) := by
  have hlen := hw.length
  have hdue := slotDue_sample.mp hdue
  have hcfg := h.cfg
  refine ⟨h.lineEntry_port (!s.inv), h.lineEntry_bit (!s.inv), ?_, fun hnil => ?_, fun i a d hi ha hd => ?_,
    fun i a hi => ?_⟩
  · simp [State.lineEntry, State.entry, h.latched.inv, hlen]
  · rw [lineEntry_t, sample_now, State.now, hcfg]
    obtain ⟨past, -, fresh⟩ | _ := hw.wait
    · refine ⟨by omega, fun hC => ?_⟩
      obtain ⟨ht, hr⟩ := fresh hC
      have hgap := hC.gap_le s hcfg
      simp only [hr, Bool.false_eq_true, if_false] at hgap
      omega
    · simp [hnil] at hlen
  · obtain _ | ⟨i', a', d', ha', hd', marks, ended, polled⟩ := hw.wait
    · omega
    obtain rfl : i = i' := by omega
    obtain rfl : a' = a := by simpa [ha'] using ha
    obtain rfl : d' = d := by simpa [hd'] using hd
    rw [h.latched.per] at hdue
    refine ⟨marks.sample.add_le_now hdue, ?_, fun hC => hC.sample_now_le hcfg (polled hC)⟩
    rw [lineEntry_t, sample_now]
    omega
  · omega

/-- A poll of R81 in vain: the wait goes on, and with bounded lateness it is not over. -/
theorem Course.Waits.poll (hw : C.Waits j s) (h : C.Has s) (hwrites : C.Writes s.wtrace)
    (hnot : (sample s).slotDue = false) : C.Waits j (pollAgain .awaitSlot (sample s)) := by
  have hnot := not_slotDue_sample.mp hnot
  have hcfg := h.cfg
  have hper := h.latched.per
  refine ⟨hw.length, ?_⟩
  obtain ⟨past, seen, fresh⟩ | ⟨i, a, d, ha, hd, marks, ended, polled⟩ := hw.wait
  · have hseen : subMod s.cfg.ccw (sample s).cc s.tprev = (s.per + (s.t + s.gap - C.t0)) % 2 ^ s.cfg.ccw := by
      have hsum : s.per + (s.t + s.gap - C.t0) = s.per + (s.t - C.t0) + s.gap := by omega
      rw [cc_sample_eq, subMod_add_left, seen, Nat.mod_add_mod, hsum]
    refine .first (past.trans (Nat.le_add_right ..)) hseen fun hC => ?_
    obtain ⟨ht, hr⟩ := fresh hC
    have hgap := hC.gap_le s hcfg
    have hfits := hC.period_fits
    simp only [hr, Bool.false_eq_true, if_false] at hgap
    rw [hseen, hcfg, Nat.mod_eq_of_lt (by omega)] at hnot
    omega
  · have hmarks := marks.sample
    refine .later i a d ha hd ⟨hmarks.past, hmarks.seen⟩ (ended.trans ?_) fun hC => ?_
    · exact Nat.le.intro sample_now.symm
    · have hlate := hC.sample_now_le hcfg (polled hC)
      have hwide := (hwrites.wide ha hd).2 hC
      have hpulse := hC.pulse_fits i
      have hperiod := hC.period_fits
      rw [hper] at hnot
      refine hmarks.now_lt_add hnot ?_
      rw [sample_cfg, hcfg]
      omega

theorem Course.Pulse.poll (hp : C.Pulse j s a) : C.Pulse j (sample s) a := ⟨hp.length, hp.start, hp.marks.sample⟩

/-- The test of R83 passes in time, so the pulse may end. -/
theorem Course.Pulse.allows (hp : C.Pulse j s a) (h : C.Has s) (hdur : s.currentDuration = C.dur j)
    (hpolled : C.OnTime → s.Polled (C.dur j) a a) (hdue : (sample s).holdDue = true) :
    C.Allows s.wtrace ((sample s).lineEntry s.inv) := by
  have hlen := hp.length
  have hdue := holdDue_sample.mp hdue
  rw [hdur] at hdue
  refine ⟨h.lineEntry_port s.inv, h.lineEntry_bit s.inv, ?_, fun hnil => ?_, fun i a d hi => ?_, fun i a' hi ha => ?_⟩
  · simp [State.lineEntry, State.entry, h.latched.inv, hlen]
  · simp [hnil] at hlen
  · omega
  · obtain rfl : i = j := by omega
    obtain rfl : a = a' := by simpa [hp.start] using ha
    refine ⟨hp.marks.sample.add_le_now hdue, fun hC => ?_⟩
    have hlate := hC.sample_now_le h.cfg (hpolled hC)
    have hfirst := hC.delay_le i
    rw [lineEntry_t]
    omega

/-- A poll of R83 in vain: with bounded lateness the pulse is not over. -/
theorem Course.Pulse.polled (hp : C.Pulse j s a) (h : C.Has s) (hdur : s.currentDuration = C.dur j)
    (hpolled : C.OnTime → s.Polled (C.dur j) a a) (hnot : (sample s).holdDue = false) (hC : C.OnTime) :
    (pollAgain .hold (sample s)).Polled (C.dur j) a a := by
  have hnot := not_holdDue_sample.mp hnot
  have hlate := hC.sample_now_le h.cfg (hpolled hC)
  have hpulse := hC.pulse_fits j
  have hfirst := hC.delay_le j
  rw [hdur] at hnot
  refine hp.marks.sample.now_lt_add hnot ?_
  rw [sample_cfg, h.cfg]
  omega

/-- The state is in slot `j` of the call: where it is, what it has written, and what it waits for. -/
structure Course.At (C : Course) (j : Nat) (s : State) : Prop where
  has : C.Has s
  position : AtBit C.k.a0 j s
  writes : C.Writes s.wtrace
  phase : C.Phase j s

/-- Every row of R89's table but those of `ADVANCE` stays in the slot. -/
theorem Course.At.stays (h : C.At j s) (hs : LoopStep s t) (hst : s.st ≠ .advance) (hwrites : C.Writes t.wtrace)
    (hphase : C.Phase j t) : C.At j t :=
  ⟨h.has.of_loopStep hs, h.position.of_loopStep hs hst, hwrites, hphase⟩

theorem Course.At.starts (h : C.At j s) (hst : s.st = .awaitSlot) (hdue : (sample s).slotDue = true) :
    C.At j (startSlot (sample s)) := by
  have hwaits : C.Waits j s := by simpa only [Course.Phase, hst] using h.phase
  exact h.stays (.slotStarts hst hdue) (by simp [hst]) h.writes
    (⟨hwaits.length, rfl, hwaits.allows h.has hdue⟩ : C.Starts j (startSlot (sample s)))

theorem Course.At.waits (h : C.At j s) (hst : s.st = .awaitSlot) (hnot : (sample s).slotDue = false) :
    C.At j (pollAgain .awaitSlot (sample s)) := by
  have hwaits : C.Waits j s := by simpa only [Course.Phase, hst] using h.phase
  exact h.stays (.slotNotDue hst hnot) (by simp [hst]) h.writes (hwaits.poll h.has h.writes hnot)

theorem Course.At.asserts (h : C.At j s) (hst : s.st = .assert) : C.At j (enter .hold (drive true s)) := by
  have hstarts : C.Starts j s := by simpa only [Course.Phase, hst] using h.phase
  have hlen := hstarts.length
  have hrepoll : s.repoll = false := repoll_eq_false_of_inv h.has.inv (by simp [hst]) (by simp [hst])
  have htrace : (enter .hold (drive true s)).wtrace = s.wtrace ++ [s.lineEntry (!s.inv)] := by
    simpa using drive_wtrace_lineEntry (s := s) true
  refine h.stays (.asserts hst) (by simp [hst]) (htrace ▸ h.writes.snoc hstarts.allowed)
    ⟨s.lineEntry (!s.inv), ⟨?_, ?_, ?_, ?_⟩, fun _ => ?_⟩
  · rw [htrace, List.length_append, hlen, List.length_singleton]
  · rw [htrace, ← hlen, List.getElem?_concat_length]
  · exact le_of_eq (by simp [State.now, lineEntry_t])
  · simp [hstarts.tstart, subMod_self, lineEntry_t, State.now]
  · simp [State.Polled, hrepoll, lineEntry_t, State.now]

theorem Course.At.currentDuration_eq (h : C.At j s) (hst : s.st = .hold) : s.currentDuration = C.dur j :=
  h.has.currentDuration_eq (running_of_st hst (by decide) (by decide)) h.position

theorem Course.At.ends (h : C.At j s) (hst : s.st = .hold) (hdue : (sample s).holdDue = true) :
    C.At j (enter .deassert (sample s)) := by
  obtain ⟨a, hpulse, hpolled⟩ : ∃ a, C.Pulse j s a ∧ (C.OnTime → s.Polled (C.dur j) a a) := by
    simpa only [Course.Phase, hst] using h.phase
  obtain ⟨hlen, hstart, hmarks⟩ := hpulse.poll
  exact h.stays (.holdEnds hst hdue) (by simp [hst]) h.writes
    ⟨a, ⟨hlen, hstart, ⟨hmarks.past, hmarks.seen⟩⟩, hpulse.allows h.has (h.currentDuration_eq hst) hpolled hdue⟩

theorem Course.At.holds (h : C.At j s) (hst : s.st = .hold) (hnot : (sample s).holdDue = false) :
    C.At j (pollAgain .hold (sample s)) := by
  obtain ⟨a, hpulse, hpolled⟩ : ∃ a, C.Pulse j s a ∧ (C.OnTime → s.Polled (C.dur j) a a) := by
    simpa only [Course.Phase, hst] using h.phase
  obtain ⟨hlen, hstart, hmarks⟩ := hpulse.poll
  exact h.stays (.holdGoesOn hst hnot) (by simp [hst]) h.writes
    ⟨a, ⟨hlen, hstart, ⟨hmarks.past, hmarks.seen⟩⟩, hpulse.polled h.has (h.currentDuration_eq hst) hpolled hnot⟩

theorem Course.At.deasserts (h : C.At j s) (hst : s.st = .deassert) : C.At j (enter .advance (drive false s)) := by
  obtain ⟨a, ⟨hlen, hstart, hmarks⟩, hallowed⟩ :
      ∃ a, C.Pulse j s a ∧ C.Allows s.wtrace (s.lineEntry s.inv) := by
    simpa only [Course.Phase, hst] using h.phase
  have htrace : (enter .advance (drive false s)).wtrace = s.wtrace ++ [s.lineEntry s.inv] := by
    simpa using drive_wtrace_lineEntry (s := s) false
  have hnow : (enter .advance (drive false s)).now = s.now := by simp [State.now]
  refine h.stays (.deasserts hst) (by simp [hst]) (htrace ▸ h.writes.snoc hallowed)
    ⟨a, s.lineEntry s.inv, ?_, ?_, ?_, ⟨?_, ?_⟩, ?_⟩
  · rw [htrace, List.length_append, hlen, List.length_singleton]
    omega
  · rwa [htrace, List.getElem?_append_left (by omega)]
  · rw [htrace, ← hlen, List.getElem?_concat_length]
  · exact hnow ▸ hmarks.past
  · rw [hnow]
    simpa using hmarks.seen
  · rw [hnow, lineEntry_t]

/-- `ADVANCE` hands the start of the slot on as the baseline of the next one, and touches nothing of the past (R85). -/
theorem loopStep_advance (hs : LoopStep s t) (hst : s.st = .advance) :
    t.tprev = s.tstart ∧ t.wtrace = s.wtrace ∧ t.t = s.t ∧ t.c0 = s.c0 ∧ t.cfg = s.cfg ∧ t.repoll = s.repoll := by
  cases hs with
  | nextBit | callEnds | nextByte => simp
  | rest h | slotStarts h | slotNotDue h | asserts h | holdEnds h | holdGoesOn h | deasserts h => simp [hst] at h

theorem Course.At.advances (h : C.At j s) (hst : s.st = .advance) (hs : LoopStep s t) : C.At (j + 1) t := by
  obtain ⟨a, d, hlen, hstart, hstop, hmarks, hjust⟩ : ∃ a d, C.Moves j s a d := by
    simpa only [Course.Phase, hst] using h.phase
  have hrepoll : s.repoll = false := repoll_eq_false_of_inv h.has.inv (by simp [hst]) (by simp [hst])
  obtain ⟨hposition, hnext⟩ := h.position.advance h.has.inv hs hst
  obtain ⟨htprev, htrace, ht, hc0, hcfg, hpoll⟩ := loopStep_advance hs hst
  have hnow : t.now = s.now := by rw [State.now, State.now, ht, hcfg]
  have hcc : t.cc = s.cc := by rw [State.cc, State.cc, hc0, ht, hcfg]
  refine ⟨h.has.of_loopStep hs, hposition, htrace ▸ h.writes, ?_⟩
  obtain hwait | ⟨hdone, hptr, hwhole⟩ := hnext
  · have hmarks' : Marks t t.tprev a := ⟨hnow ▸ hmarks.past, by rw [hcfg, hcc, htprev, hnow, hmarks.seen]⟩
    have hpolled : t.Polled C.k.a5 a d := by simp [State.Polled, hpoll, hrepoll, hnow, hjust]
    have hwaits : C.Waits (j + 1) t :=
      ⟨htrace ▸ hlen, .later j a d (htrace ▸ hstart) (htrace ▸ hstop) hmarks' (hjust.trans hnow.symm).le
        fun _ => hpolled⟩
    simpa only [Course.Phase, hwait] using hwaits
  · obtain ⟨-, -, -, hend, -⟩ := loopStep_latches hs
    have hover : C.Over (j + 1) t := by
      refine ⟨htrace ▸ hlen, hwhole, hptr.trans hend.symm, fun e he => ?_⟩
      have hlast : s.wtrace.length - 1 = 2 * j + 1 := by omega
      rw [htrace, List.getLast?_eq_getElem?, hlast, hstop] at he
      obtain rfl : d = e := by simpa using he
      rw [hjust, hnow]
    simpa only [Course.Phase, hdone] using hover

theorem Course.At.of_loopStep (h : C.At j s) (hs : LoopStep s t) : ∃ i, C.At i t := by
  cases hs with
  | rest => exact ⟨j, h⟩
  | slotStarts hst hdue => exact ⟨j, h.starts hst hdue⟩
  | slotNotDue hst hnot => exact ⟨j, h.waits hst hnot⟩
  | asserts hst => exact ⟨j, h.asserts hst⟩
  | holdEnds hst hdue => exact ⟨j, h.ends hst hdue⟩
  | holdGoesOn hst hnot => exact ⟨j, h.holds hst hnot⟩
  | deasserts hst => exact ⟨j, h.deasserts hst⟩
  | nextBit hst hm => exact ⟨j + 1, h.advances hst (.nextBit hst hm)⟩
  | callEnds hst hm he => exact ⟨j + 1, h.advances hst (.callEnds hst hm he)⟩
  | nextByte hst hm he b hb => exact ⟨j + 1, h.advances hst (.nextByte hst hm he b hb)⟩

/-- A call stays on its course, however many steps it makes. -/
theorem Course.At.of_reaches (h : C.At j s) (hr : Reaches s t) : ∃ i, C.At i t := by
  induction hr with
  | refl => exact ⟨j, h⟩
  | tail _ hs ih =>
    obtain ⟨i, hi⟩ := ih
    exact hi.of_loopStep (step_quiet hi.has.quiet hs)

/-- The course of the call that command `k`, issued in `s0`, has started in `s`. -/
def courseOf (k : Command) (s0 s : State) (slack delay : Nat) : Course :=
  ⟨k, s0.cfg, s0.c0, s0.mem, s.t, slack, delay⟩

variable {k : Command} {s0 : State} {slack delay : Nat}

theorem Started.inv_started (h : Started k s0 s) : s.Inv := by
  have haccept := h.accepted
  rw [exec_command] at haccept
  exact inv_accept h.inv haccept

/-- A call starts on its course, before its first slot or, with an empty buffer, at its end. -/
theorem Started.at (h : Started k s0 s) : (courseOf k s0 s slack delay).At 0 s := by
  have hinv := h.inv_started
  have hlatched := latched_newCall h.fits
  obtain ⟨hempty, rfl⟩ | ⟨-, b, -, rfl⟩ := h.cases
  · refine ⟨⟨hinv, h.quiet, rfl, rfl, rfl, { hlatched with }⟩, ⟨?_, rfl⟩, .nil, ?_⟩
    · exact (latchedWhole_of_fits h.fits).a0
    · have hptr : (newCall k s0).ptr = (newCall k s0).endAddr := by
        rw [newCall_ptr, newCall_endAddr, hempty]
      exact (⟨rfl, rfl, hptr, nofun⟩ : Course.Over (courseOf k s0 _ slack delay) 0 (enter .done (newCall k s0)))
  · refine ⟨⟨hinv, h.quiet, rfl, rfl, rfl, latched_startedCall h.fits⟩, ⟨startedCall_ptr h.fits, rfl⟩, .nil, ?_⟩
    have hseen : subMod s0.cfg.ccw (startedCall k b s0).cc (startedCall k b s0).tprev
        = (startedCall k b s0).per % 2 ^ s0.cfg.ccw := by
      rw [startedCall_tprev h.fits, subMod_subMod, (latched_startedCall h.fits).per]
    have hwait : (courseOf k s0 (startedCall k b s0) slack delay).SlotWait (startedCall k b s0) 0 :=
      .first le_rfl (by rwa [courseOf, Nat.sub_self, Nat.add_zero]) fun _ => ⟨rfl, rfl⟩
    exact (⟨rfl, hwait⟩ : Course.Waits _ 0 _)

end Sys2Proof.Machine

/-! ### What a whole call has written, and when (R92 to R95, R98) -/

namespace Sys2Proof.Machine

variable {k : Command} {s0 s s' t : State} {C : Course} {j n slack delay : Nat} {a d e f : TraceEntry}
  {tr : List TraceEntry}

/-- Whatever a call reaches is on its course. -/
theorem Started.at_of_reaches (h : Started k s0 s) (hr : Reaches s s') : ∃ j, (courseOf k s0 s slack delay).At j s' :=
  h.at.of_reaches hr

theorem Course.At.over (h : C.At j s) (hst : s.st = .done) : C.Over j s := by
  simpa only [Course.Phase, hst] using h.phase

/-- A call that is over has made the two writes of each of the eight slots of every byte (R92). -/
theorem Course.At.length_of_done (h : C.At j s) (hst : s.st = .done) : s.wtrace.length = 16 * C.k.length := by
  obtain ⟨hlen, hwhole, hptr, -⟩ := h.over hst
  have hend : C.k.a0 + j / 8 = C.k.a1 := by rw [← h.position.ptr, hptr, h.has.latched.endAddr]
  rw [Command.length]
  omega

/-- Every other write asserts the line, and the ones between de-assert it (R92). -/
theorem Course.Writes.level (h : C.Writes tr) (he : tr[n]? = some e) : e.level = xor (decide (n % 2 = 0)) C.k.inv := by
  have hlt := (List.getElem?_eq_some_iff.mp he).1
  rw [(h.allows he).level, List.length_take_of_le hlt.le]

/-- Settles O41: the writes by the course of the call, their number by its last pointer. -/
theorem callMakesExactlyEightPulsePairsPerByte : Obligations.CallMakesExactlyEightPulsePairsPerByte := by
  unfold Obligations.CallMakesExactlyEightPulsePairsPerByte
  intro k s0 s s' hs hr hdone
  obtain ⟨j, hat⟩ := hs.at_of_reaches (slack := 0) (delay := 0) hr
  refine ⟨hat.length_of_done hdone, fun n e he => ?_⟩
  have hallowed := hat.writes.allows he
  exact ⟨hallowed.port, hallowed.bit, hat.writes.level he⟩

/-- Settles O42: the lower bounds need no bound of lateness. -/
theorem pulsesAreNeverShortAndSlotsNeverEarly : Obligations.PulsesAreNeverShortAndSlotsNeverEarly := by
  unfold Obligations.PulsesAreNeverShortAndSlotsNeverEarly
  intro k s0 s s' hs hr j a d ha hd
  obtain ⟨i, hat⟩ := hs.at_of_reaches (slack := 0) (delay := 0) hr
  refine ⟨(hat.writes.wide ha hd).1, fun a' ha' => ?_⟩
  obtain ⟨hperiod, hafter, -⟩ := hat.writes.spaced ha hd ha'
  exact ⟨hperiod, hafter⟩

/-- The duration of a slot is one of the two that the command gives (R93). -/
theorem slotDuration_cases (k : Command) (m : Memory) (j : Nat) :
    k.slotDuration m j = k.a3 ∨ k.slotDuration m j = k.a4 := by
  rw [Command.slotDuration]
  split
  · exact .inr rfl
  · exact .inl rfl

theorem one_le_of_bounded {c : Config} {J : Nat} (h : c.legal = true) (hJ : c.profile = .bounded J) : 1 ≤ J := by
  simp only [Config.legal, hJ, Bool.and_eq_true, decide_eq_true_eq] at h
  exact h.2

/-- A stall bound `J` makes a first poll late by `J` ticks at most, and a re-polled test by `J - 1` (R94, R124). -/
theorem onTime_of_bounded {J : Nat} (hpos : 1 ≤ J) (hJ : s0.cfg.profile = .bounded J) (h3 : 1 ≤ k.a3) (h4 : 1 ≤ k.a4)
    (h3fits : k.a3 + 2 * J < 2 ^ s0.cfg.ccw) (h4fits : k.a4 + 2 * J < 2 ^ s0.cfg.ccw)
    (h5fits : k.a5 + 2 * J < 2 ^ s0.cfg.ccw) : (courseOf k s0 s (J - 1) J).OnTime where
  gap_le u hu := by
    have hgap : u.gap ≤ J := gap_le_of_bounded (by rw [hu]; exact hJ)
    simp only [courseOf]
    split <;> omega
  period_fits := by
    simp only [courseOf]
    omega
  pulse_fits j := by
    have hdur := slotDuration_cases k s0.mem j
    simp only [courseOf, Course.dur]
    omega
  delay_le j := by
    have hdur := slotDuration_cases k s0.mem j
    simp only [courseOf, Course.dur]
    omega

/-- Slot by slot, the starts stay between `n` periods and `n` periods with their lateness (R94). -/
theorem Course.Writes.start_bounds (h : C.Writes tr) (hC : C.OnTime)
    (hslack : ∀ j, C.dur j + C.delay ≤ C.k.a5) {a0 : TraceEntry} (h0 : tr[0]? = some a0) (ha : tr[2 * j]? = some a) :
    a0.t + j * C.k.a5 ≤ a.t ∧ a.t ≤ a0.t + j * (C.k.a5 + C.slack) := by
  induction j generalizing a with
  | zero =>
    obtain rfl : a0 = a := by simpa [h0] using ha
    simp
  | succ j ih =>
    have hlt := (List.getElem?_eq_some_iff.mp ha).1
    have hb : tr[2 * j]? = some tr[2 * j] := List.getElem?_eq_getElem (by omega)
    have hd : tr[2 * j + 1]? = some tr[2 * j + 1] := List.getElem?_eq_getElem (by omega)
    obtain ⟨hlow, hhigh⟩ := ih hb
    obtain ⟨hperiod, -, hlate⟩ := h.spaced hb hd ha
    have hlate := hlate hC
    have hwide := (h.wide hb hd).2 hC
    have hfree := hslack j
    rw [Nat.succ_mul, Nat.succ_mul]
    omega

/-- Settles O43: the bounds of lateness are those of the stall bound. -/
theorem stallBoundLimitsWidthsAndSpacings : Obligations.StallBoundLimitsWidthsAndSpacings := by
  unfold Obligations.StallBoundLimitsWidthsAndSpacings
  intro k s0 s s' J hs hr hJ h3 h4 h5 h3fits h4fits h5fits
  have hpos := one_le_of_bounded hs.inv.legal hJ
  have hC := onTime_of_bounded (s := s) hpos hJ h3 h4 h3fits h4fits h5fits
  obtain ⟨i, hat⟩ := hs.at_of_reaches (slack := J - 1) (delay := J) hr
  refine ⟨fun j a d ha hd => ?_, fun h3free h4free j a0 a h0 ha => ?_⟩
  · obtain ⟨hshort, hlong⟩ := hat.writes.wide ha hd
    have hlong := hlong hC
    refine ⟨hshort, hlong, fun a' ha' => ?_⟩
    obtain ⟨hperiod, -, hlate⟩ := hat.writes.spaced ha hd ha'
    have hlate := hlate hC
    simp only [courseOf, Course.dur] at hperiod hlate hlong
    refine ⟨hperiod, hlate, fun hfree => ?_⟩
    omega
  · have hfree (i : Nat) : k.slotDuration s0.mem i + J ≤ k.a5 := by
      have hdur := slotDuration_cases k s0.mem i
      omega
    have hbounds := hat.writes.start_bounds hC hfree h0 ha
    rwa [Nat.add_sub_assoc hpos]

/-! The end of a call -/

/-- The call of a non-empty buffer is over right after its last de-assert (R98). -/
theorem Course.At.last_write (h : C.At j s) (hst : s.st = .done) (hlt : C.k.a0 < C.k.a1) :
    ∃ d, s.wtrace.getLast? = some d ∧ s.wtrace[2 * (8 * C.k.length - 1) + 1]? = some d ∧ d.t = s.now := by
  have hlen := h.length_of_done hst
  have hpos : 0 < C.k.length := Nat.sub_pos_of_lt hlt
  have hlast := List.getLast?_eq_some_getLast (l := s.wtrace) (List.ne_nil_of_length_pos (by omega))
  have hplace : 2 * (8 * C.k.length - 1) + 1 = s.wtrace.length - 1 := by omega
  refine ⟨_, hlast, ?_, (h.over hst).just _ hlast⟩
  rw [hplace, ← List.getLast?_eq_getElem?, hlast]

theorem loopStep_wtrace (hs : LoopStep s t) (ha : s.st ≠ .assert) (hd : s.st ≠ .deassert) : t.wtrace = s.wtrace := by
  cases hs with
  | asserts h => exact absurd h ha
  | deasserts h => exact absurd h hd
  | _ => simp

/-- Once a call has written, its line has the level that its place in the loop asks for (R67). -/
theorem line_of_reaches (h : C.At j s) (hnil : s.wtrace = []) (hr : Reaches s t) :
    t.wtrace = [] ∨ t.line = t.expectedLine := by
  induction hr with
  | refl => exact .inl hnil
  | @tail u v hu hs ih =>
    obtain ⟨i, hat⟩ := h.of_reaches hu
    have hrow := step_quiet hat.has.quiet hs
    obtain hline | ⟨hline, hexpected, hassert, hdeassert⟩ := loopStep_line hat.has.inv hrow
    · exact .inr hline
    · rw [hline, hexpected, loopStep_wtrace hrow hassert hdeassert]
      exact ih

theorem Started.wtrace_eq (h : Started k s0 s) : s.wtrace = [] := by
  obtain ⟨-, rfl⟩ | ⟨-, b, -, rfl⟩ := h.cases <;> rfl

/-- Settles O46: the last write of the course, and the line that follows it. -/
theorem callEndsRightAfterItsLastDeassert : Obligations.CallEndsRightAfterItsLastDeassert := by
  unfold Obligations.CallEndsRightAfterItsLastDeassert
  intro k s0 s s' hs hlt hr hdone
  obtain ⟨j, hat⟩ := hs.at_of_reaches (slack := 0) (delay := 0) hr
  obtain ⟨d, hlast, hd, hjust⟩ := hat.last_write hdone hlt
  refine ⟨?_, d, hlast, (hat.writes.level hd).trans (by simp [courseOf]), ?_⟩
  · obtain hnil | hline := line_of_reaches (hs.at (slack := 0) (delay := 0)) hs.wtrace_eq hr
    · simp [hnil] at hlast
    · rw [hline, expectedLine_of_deasserted (by simp [hdone]) (by simp [hdone])]
      exact hat.has.latched.inv
  · rw [hjust, State.now, hat.has.cfg]
    rfl

/-! The ideal waveform -/

/-- In the ideal profile no sample is late: a first poll takes no time and a re-poll one tick (R95, R125). -/
theorem onTime_of_ideal (hi : s0.cfg.profile = .ideal) (hfits : k.fits s0.cfg) : (courseOf k s0 s 0 0).OnTime := by
  have hwhole := latchedWhole_of_fits hfits
  have h3 : k.a3 < 2 ^ s0.cfg.ccw := hwhole.a3 ▸ trunc_lt ..
  have h4 : k.a4 < 2 ^ s0.cfg.ccw := hwhole.a4 ▸ trunc_lt ..
  have h5 : k.a5 < 2 ^ s0.cfg.ccw := hwhole.a5 ▸ trunc_lt ..
  refine ⟨fun u hu => ?_, h5, fun j => ?_, fun j => Nat.zero_le _⟩
  · rw [gap_of_ideal (by rw [hu]; exact hi)]
    rfl
  · obtain hdur | hdur := slotDuration_cases k s0.mem j
    · exact lt_of_eq_of_lt hdur h3
    · exact lt_of_eq_of_lt hdur h4

/-- Without lateness every slot starts at its ideal time (R95). -/
theorem Course.Writes.ideal_start (h : C.Writes tr) (hC : C.OnTime) (hslack : C.slack = 0) (hdelay : C.delay = 0)
    (ha : tr[2 * j]? = some a) : a.t = C.k.idealStart C.mem C.t0 j + C.cfg.wlat := by
  induction j generalizing a with
  | zero =>
    obtain ⟨hlow, hhigh⟩ := (h.allows ha).first rfl
    have hhigh := hhigh hC
    rw [Command.idealStart]
    omega
  | succ j ih =>
    have hlt := (List.getElem?_eq_some_iff.mp ha).1
    have hb : tr[2 * j]? = some tr[2 * j] := List.getElem?_eq_getElem (by omega)
    have hd : tr[2 * j + 1]? = some tr[2 * j + 1] := List.getElem?_eq_getElem (by omega)
    have hstart := ih hb
    obtain ⟨hperiod, hafter, hlate⟩ := h.spaced hb hd ha
    have hlate := hlate hC
    obtain ⟨hshort, hlong⟩ := h.wide hb hd
    have hlong := hlong hC
    rw [Command.idealStart]
    rw [Course.dur] at hshort hlong
    omega

/-- Without lateness every pulse is exactly as long as its bit (R95). -/
theorem Course.Writes.ideal_stop (h : C.Writes tr) (hC : C.OnTime) (hslack : C.slack = 0) (hdelay : C.delay = 0)
    (hd : tr[2 * j + 1]? = some d) : d.t = C.k.idealStart C.mem C.t0 j + C.dur j + C.cfg.wlat := by
  have hlt := (List.getElem?_eq_some_iff.mp hd).1
  have ha : tr[2 * j]? = some tr[2 * j] := List.getElem?_eq_getElem (by omega)
  have hstart := h.ideal_start hC hslack hdelay ha
  obtain ⟨hshort, hlong⟩ := h.wide ha hd
  have hlong := hlong hC
  omega

/-- A write of the call is known by its place and its time: the trace is stamped (R31). -/
theorem Course.At.entry_eq (h : C.At j s) {T : Nat} {l : Bool} (he : s.wtrace[n]? = some e)
    (ht : e.t = T + C.cfg.wlat) (hl : xor (decide (n % 2 = 0)) C.k.inv = l) : e = C.k.entryAt C.cfg C.c0 T l := by
  have hallowed := h.writes.allows he
  have hlevel := (h.writes.level he).trans hl
  obtain ⟨hstamp, -⟩ := h.has.inv.trace_stamped e (List.mem_of_getElem? he)
  rw [h.has.c0, h.has.cfg, ht] at hstamp
  have hport := hallowed.port
  have hbit := hallowed.bit
  cases e
  simp_all [Command.entryAt]

/-- A list is made of `n` pairs when its even and its odd entries are theirs. -/
theorem eq_flatMap_pairs {α : Type} {p q : Nat → α} {l : List α} (hlen : l.length = 2 * n)
    (hp : ∀ i < n, l[2 * i]? = some (p i)) (hq : ∀ i < n, l[2 * i + 1]? = some (q i)) :
    l = (List.range n).flatMap fun i => [p i, q i] := by
  induction n generalizing l p q with
  | zero => exact List.eq_nil_of_length_eq_zero hlen
  | succ n ih =>
    obtain ⟨x, y, l, rfl⟩ : ∃ x y l', l = x :: y :: l' := by
      match l, hlen with
      | x :: y :: l', _ => exact ⟨x, y, l', rfl⟩
    have hrest : l = (List.range n).flatMap fun i => [p (i + 1), q (i + 1)] :=
      ih (by simpa [Nat.mul_succ] using hlen) (fun i hi => hp (i + 1) (by omega)) fun i hi => hq (i + 1) (by omega)
    obtain rfl : x = p 0 := by simpa using hp 0 (by omega)
    obtain rfl : y = q 0 := by simpa using hq 0 (by omega)
    rw [List.range_succ_eq_map, List.flatMap_cons, List.flatMap_map, hrest]
    rfl

/-- Without lateness a call that is over has written the ideal waveform and nothing else (R95, R140). -/
theorem Course.At.ideal_waveform (h : C.At j s) (hC : C.OnTime) (hslack : C.slack = 0) (hdelay : C.delay = 0)
    (hst : s.st = .done) :
    s.wtrace = C.k.waveform C.cfg C.c0 C.mem (C.k.idealStart C.mem C.t0) := by
  have hlen := h.length_of_done hst
  refine eq_flatMap_pairs (by omega) (fun i hi => ?_) fun i hi => ?_
  · have he : s.wtrace[2 * i]? = some s.wtrace[2 * i] := List.getElem?_eq_getElem (by omega)
    rw [he, h.entry_eq he (h.writes.ideal_start hC hslack hdelay he) (l := !C.k.inv) (by simp)]
  · have he : s.wtrace[2 * i + 1]? = some s.wtrace[2 * i + 1] := List.getElem?_eq_getElem (by omega)
    rw [he, h.entry_eq he (h.writes.ideal_stop hC hslack hdelay he) (l := C.k.inv) (by simp)]
    rfl

/-- The ideal call is over when its last pulse is (R95, R98). -/
theorem Course.At.ideal_end (h : C.At j s) (hC : C.OnTime) (hslack : C.slack = 0) (hdelay : C.delay = 0)
    (hst : s.st = .done) (hlt : C.k.a0 < C.k.a1) :
    s.t = C.k.idealStart C.mem C.t0 (8 * C.k.length - 1) + C.dur (8 * C.k.length - 1) := by
  obtain ⟨d, -, hd, hjust⟩ := h.last_write hst hlt
  rw [h.writes.ideal_stop hC hslack hdelay hd, State.now, h.has.cfg] at hjust
  omega

/-- Under the Timing Parameters invariant no slot is waited for longer than the period (R12, R140). -/
theorem idealStart_of_timingInvariant (h : k.timingInvariant) (m : Memory) (t0 j : Nat) :
    k.idealStart m t0 j = t0 + j * k.a5 := by
  obtain ⟨-, h3, -, h4⟩ := h
  induction j with
  | zero => simp [Command.idealStart]
  | succ j ih =>
    have hdur := slotDuration_cases k m j
    rw [Command.idealStart, ih, Nat.succ_mul]
    omega

/-- In the ideal profile a call on a readable buffer ends, for all timing arguments (R95, R125). -/
theorem Started.reaches_done_of_ideal (h : Started k s0 s) (hi : s0.cfg.profile = .ideal) (hlt : k.a0 < k.a1)
    (hread : s0.mem.readable k.a0 k.a1) : ∃ s', Reaches s s' ∧ s'.st = .done ∧ s'.ptr = k.a1 := by
  obtain ⟨hhas, hposition, -, -⟩ := h.at (slack := 0) (delay := 0)
  obtain ⟨hinv, hquiet, hcfg, -, hmem, hlatched⟩ := hhas
  obtain ⟨hempty, -⟩ | ⟨-, b, -, rfl⟩ := h.cases
  · exact absurd hempty hlt.ne
  have hlive : Live 1 (startedCall k b s0) := by
    refine ⟨hinv, running_of_st (x := .awaitSlot) rfl (by decide) (by decide), hquiet, fun u hu hr => ?_,
      hinv.sh_fits, hinv.lh_fits, hinv.per_fits, ?_⟩
    · rw [gap_of_ideal (by rw [hu, hcfg]; exact hi), gmin_of_repoll hr]
    · rw [startedCall_ptr h.fits, hlatched.endAddr, hmem]
      exact hread
  obtain ⟨s', hr, hdone, hptr⟩ := hlive.reaches_done hposition (Nat.le_add_left ..)
  exact ⟨s', hr, hdone, hptr.trans hlatched.endAddr⟩

/-- The priming sample of an ideal call takes no time (R125). -/
theorem Started.t_of_ideal (h : Started k s0 s) (hi : s0.cfg.profile = .ideal) (hlt : k.a0 < k.a1) : s.t = s0.t := by
  obtain ⟨hempty, -⟩ | ⟨-, b, -, rfl⟩ := h.cases
  · exact absurd hempty hlt.ne
  · rw [startedCall_t, newCall_gap_of_ideal hi, Nat.add_zero]

/-- Settles O44: the call ends, and without lateness its course is the ideal one. -/
theorem idealCallMakesExactlyTheIdealWaveform : Obligations.IdealCallMakesExactlyTheIdealWaveform := by
  unfold Obligations.IdealCallMakesExactlyTheIdealWaveform
  intro k s0 s hs hi hlt hread
  obtain ⟨s', hr, hdone, hptr⟩ := hs.reaches_done_of_ideal hi hlt hread
  obtain ⟨j, hat⟩ := hs.at_of_reaches (slack := 0) (delay := 0) hr
  have hC := onTime_of_ideal (s := s) hi hs.fits
  have hstart : (courseOf k s0 s 0 0).t0 = s0.t := hs.t_of_ideal hi hlt
  have hwaveform := hat.ideal_waveform hC rfl rfl hdone
  have hend := hat.ideal_end hC rfl rfl hdone hlt
  rw [hstart] at hwaveform hend
  exact ⟨s', hr, hdone, hptr, hwaveform, hend, fun hinvariant => idealStart_of_timingInvariant hinvariant _ _⟩

end Sys2Proof.Machine

/-! ### A micro-operation drives one line of one bank (R101 to R112) -/

namespace Sys2Proof.Machine

variable {s : State} {p : Instr × Bool}

/-- The four rows of a bank, each with the level `ACT XOR INV` (R70, R112). -/
theorem driver_row {b : Bool} (hp : p ∈ [(Instr.driver b false true, true), (Instr.driver b false false, false),
    (Instr.driver b true true, false), (Instr.driver b true false, true)]) :
    ∃ i c, p = (Instr.driver b i c, xor c i) := by
  simp only [List.mem_cons, List.not_mem_nil, or_false] at hp
  obtain rfl | rfl | rfl | rfl := hp
  · exact ⟨false, true, rfl⟩
  · exact ⟨false, false, rfl⟩
  · exact ⟨true, true, rfl⟩
  · exact ⟨true, false, rfl⟩

/-- A primary-bank micro-operation writes `POUT` and the trace, and nothing else. -/
theorem driverAction_primary_eq (i c : Bool) : driverAction false i c s = { s with
    pout := (driverAction false i c s).pout
    wtrace := s.wtrace ++ [s.entry .primary s.pin (xor c i)] } := by
  rw [driverAction_eq, driverAction_aout, driverAction_wtrace]
  rfl

/-- An alternate-bank micro-operation writes `AOUT` and the trace, and nothing else. -/
theorem driverAction_alternate_eq (i c : Bool) : driverAction true i c s = { s with
    aout := (driverAction true i c s).aout
    wtrace := s.wtrace ++ [s.entry .alternate s.cfg.abit (xor c i)] } := by
  rw [driverAction_eq, driverAction_pout, driverAction_wtrace]
  rfl

/-- A primary-bank micro-operation drives bit `PIN` of `POUT`, if the bank has that line (log 26). -/
theorem driverAction_primary_testBit (h : s.Inv) (i c : Bool) (j : Nat) : (driverAction false i c s).pout.testBit j =
    if j = s.pin ∧ s.pin < s.cfg.nl then xor c i else s.pout.testBit j := by
  rw [driverAction_pout]
  exact replaceBit_testBit_of_lt h.pout_fits j _

/-- The alternate line is a bit of its register in every legal configuration (D7). -/
theorem State.Inv.abit_lt (h : s.Inv) : s.cfg.abit < s.cfg.aow := by
  have hlegal := h.legal
  simp only [Config.legal, Bool.and_eq_true, decide_eq_true_eq] at hlegal
  obtain ⟨⟨-, habit⟩, -⟩ := hlegal
  exact habit

/-- An alternate-bank micro-operation drives bit `ABIT` of `AOUT`. -/
theorem driverAction_alternate_testBit (h : s.Inv) (i c : Bool) (j : Nat) : (driverAction true i c s).aout.testBit j =
    if j = s.cfg.abit then xor c i else s.aout.testBit j := by
  rw [driverAction_aout, if_pos rfl]
  simpa only [h.abit_lt, and_true] using replaceBit_testBit_of_lt h.aout_fits (i := s.cfg.abit) j (xor c i)

theorem line_of_primary (ha : s.alt = false) : s.line = s.pout.testBit s.pin := by
  simp [State.line, ha]

theorem line_of_alternate (ha : s.alt = true) : s.line = s.aout.testBit s.cfg.abit := by
  simp [State.line, ha]

/-- Settles O22: each row is the register action of its polarity and `ACT`, which drives bit `PIN`. -/
theorem primaryMicroOperationsDriveOneLine : Obligations.PrimaryMicroOperationsDriveOneLine := by
  unfold Obligations.PrimaryMicroOperationsDriveOneLine
  intro s hinv p hp
  obtain ⟨i, c, rfl⟩ := driver_row (b := false) hp
  have hbit := driverAction_primary_testBit hinv i c
  refine ⟨_, exec_driver .., driverAction_primary_eq i c, hbit, fun ha hpin => ?_⟩
  rw [line_of_primary (by simpa using ha), driverAction_pin, hbit, if_pos ⟨rfl, hpin⟩]

/-- Settles O23: each row is the register action of its polarity and `ACT`, which drives bit `ABIT`. -/
theorem alternateMicroOperationsDriveOneLine : Obligations.AlternateMicroOperationsDriveOneLine := by
  unfold Obligations.AlternateMicroOperationsDriveOneLine
  intro s hinv p hp
  obtain ⟨i, c, rfl⟩ := driver_row (b := true) hp
  have hbit := driverAction_alternate_testBit hinv i c
  refine ⟨_, exec_driver .., driverAction_alternate_eq i c, hbit, fun ha => ?_⟩
  rw [line_of_alternate (by simpa using ha), driverAction_cfg, hbit, if_pos rfl]

/-- Settles O24: the entry logged, and the register it is applied to, by the bank. -/
theorem levelIsActXorInvAndBankIsAlt : Obligations.LevelIsActXorInvAndBankIsAlt := by
  unfold Obligations.LevelIsActXorInvAndBankIsAlt
  intro alt inv act s
  refine ⟨_, _, exec_driver .., driverAction_wtrace .., rfl, rfl, ?_, fun ha => ?_, fun ha => ?_⟩
  · rw [driverAction_pout, driverAction_aout]
    cases alt <;> rfl
  · rw [driverAction_pout, if_pos ha]
  · rw [driverAction_aout, if_neg (by simp [ha])]

end Sys2Proof.Machine

/-! ### Opposite polarities write complementary levels (R112, R114) -/

namespace Sys2Proof.Machine

variable {k : Command} {s s0 t u : State} {p a n : Nat}

/-- The block with the opposite polarity and the complemented trace, over the GPIO registers `p` and `a`. -/
def State.mirrored (s : State) (p a : Nat) : State :=
  { s with inv := !s.inv, wtrace := s.wtrace.map TraceEntry.complement, pout := p, aout := a }

/-- A complementary block is the mirrored one, over registers that agree off the line the call drives. -/
theorem complementary_iff : Complementary s u ↔ ∃ p a, u = s.mirrored p a ∧
    (∀ i, (s.alt = true ∨ i ≠ s.pin) → p.testBit i = s.pout.testBit i) ∧
    (∀ i, (s.alt = false ∨ i ≠ s.cfg.abit) → a.testBit i = s.aout.testBit i) := by
  constructor
  · exact fun h => ⟨u.pout, u.aout, h.same, h.pout_same, h.aout_same⟩
  · rintro ⟨p, a, rfl, hp, ha⟩
    exact ⟨rfl, hp, ha⟩

/-- `ACT XOR INV` turns over with `INV` (R112), and the entry's time, bank and bit do not depend on it. -/
theorem drive_mirrored_wtrace (c : Bool) :
    (drive c (s.mirrored p a)).wtrace = (drive c s).wtrace.map TraceEntry.complement := by
  simp [State.mirrored, TraceEntry.complement, State.entry]

/-- The Pulse Driver of the opposite polarity leaves the mirrored block. -/
theorem drive_mirrored (c : Bool) : drive c (s.mirrored p a) =
    (drive c s).mirrored (drive c (s.mirrored p a)).pout (drive c (s.mirrored p a)).aout := by
  have hdrive (r : State) : drive c r =
      { r with pout := (drive c r).pout, aout := (drive c r).aout, wtrace := (drive c r).wtrace } := driverAction_eq ..
  rw [hdrive (s.mirrored p a), drive_mirrored_wtrace, hdrive s]
  rfl

/-- Two writes of a bit, of whatever level, leave registers alike that were alike off that bit. -/
theorem replaceBit_testBit_congr {w r r' b i : Nat} {l l' : Bool} (hi : i ≠ b) (h : r'.testBit i = r.testBit i) :
    (replaceBit w r' b l').testBit i = (replaceBit w r b l).testBit i := by
  simp [replaceBit_testBit, hi, h]

/-- Driving the line, as `ASSERT` and `DEASSERT` do, keeps blocks complementary. -/
theorem Complementary.enter_drive (h : Complementary s u) (c : Bool) (x : LoopState) :
    Complementary (enter x (drive c s)) (enter x (drive c u)) := by
  obtain ⟨p, a, rfl, hp, ha⟩ := complementary_iff.mp h
  refine complementary_iff.mpr ⟨(drive c (s.mirrored p a)).pout, (drive c (s.mirrored p a)).aout, ?_, ?_, ?_⟩
  · rw [drive_mirrored]
    rfl
  · intro i hi
    simp only [enter_alt, enter_pin, enter_pout, drive_alt, drive_pin, drive_pout, State.mirrored] at hi ⊢
    split_ifs with halt
    · exact hp i hi
    · exact replaceBit_testBit_congr (hi.resolve_left halt) (hp i hi)
  · intro i hi
    simp only [enter_alt, enter_cfg, enter_aout, drive_alt, drive_cfg, drive_aout, State.mirrored] at hi ⊢
    split_ifs with halt
    · exact replaceBit_testBit_congr (hi.resolve_left (by simp [halt])) (ha i hi)
    · exact ha i hi

/-- A row of R89's table is the same row for both polarities: no test reads `INV`, the trace or a GPIO register. -/
theorem Complementary.loopStep (h : Complementary s u) (hs : LoopStep s t) :
    ∃ v, LoopStep u v ∧ Complementary t v := by
  have hdrive := h.enter_drive
  obtain ⟨p, a, rfl, hp, ha⟩ := complementary_iff.mp h
  cases hs with
  | rest hst => exact ⟨_, .rest hst, h⟩
  | slotStarts hst hdue => exact ⟨_, .slotStarts (s := s.mirrored p a) hst hdue, rfl, hp, ha⟩
  | slotNotDue hst hdue => exact ⟨_, .slotNotDue (s := s.mirrored p a) hst hdue, rfl, hp, ha⟩
  | asserts hst => exact ⟨_, .asserts hst, hdrive ..⟩
  | holdEnds hst hdue => exact ⟨_, .holdEnds (s := s.mirrored p a) hst hdue, rfl, hp, ha⟩
  | holdGoesOn hst hdue => exact ⟨_, .holdGoesOn (s := s.mirrored p a) hst hdue, rfl, hp, ha⟩
  | deasserts hst => exact ⟨_, .deasserts hst, hdrive ..⟩
  | nextBit hst hm => exact ⟨_, .nextBit (s := s.mirrored p a) hst hm, rfl, hp, ha⟩
  | callEnds hst hm he => exact ⟨_, .callEnds (s := s.mirrored p a) hst hm he, rfl, hp, ha⟩
  | nextByte hst hm he b hb => exact ⟨_, .nextByte (s := s.mirrored p a) hst hm he b hb, rfl, hp, ha⟩

theorem Complementary.request_eq (h : Complementary s u) : u.request = s.request := by
  rw [h.same]

/-- One step, with nothing issued from outside. -/
theorem Complementary.step (h : Complementary s u) (hq : s.request = none) (hs : Machine.step s = .next t) :
    ∃ v, Machine.step u = .next v ∧ Complementary t v := by
  obtain ⟨v, hv, hcompl⟩ := h.loopStep (step_quiet hq hs)
  exact ⟨v, hv.step (h.request_eq.trans hq), hcompl⟩

/-- A run that starts with a step goes on from where the step leads. -/
theorem run_of_step {M : Host.Core} {r r' : M.State} (h : M.step r = .next r') : M.run (n + 1) r = M.run n r' := by
  simp [Host.Core.run, h]

/-- Any number of steps, in lockstep. -/
theorem Complementary.run (h : Complementary s u) (hq : s.request = none)
    (hr : Sys2Proof.core.run n s = .next t) : ∃ v, Sys2Proof.core.run n u = .next v ∧ Complementary t v := by
  induction n generalizing s u with
  | zero =>
    injection hr with hr
    exact ⟨u, rfl, hr ▸ h⟩
  | succ n ih =>
    obtain ⟨s', hs, hrest⟩ := run_succ hr
    obtain ⟨u', hu, h'⟩ := h.step hq hs
    obtain ⟨v, hv, hcompl⟩ := ih h' ((loopStep_quiet (step_quiet hq hs)).trans hq) hrest
    exact ⟨v, (run_of_step hu).trans hv, hcompl⟩

/-- The same command with the opposite polarity starts a complementary block: both traces are empty, and no GPIO
register has been written (R80, R170). -/
theorem Started.complementary (hs : Started k s0 s) (hu : Started { k with inv := !k.inv } s0 u) :
    Complementary s u := by
  obtain ⟨he, rfl⟩ | ⟨hlt, b, hb, rfl⟩ := hs.cases
  · obtain ⟨-, rfl⟩ | ⟨hlt, -⟩ := hu.cases
    · exact ⟨rfl, fun _ _ => rfl, fun _ _ => rfl⟩
    · exact absurd he hlt.ne
  · obtain ⟨he, -⟩ | ⟨-, b', hb', rfl⟩ := hu.cases
    · exact absurd he hlt.ne
    · obtain rfl : b = b' := Option.some.inj (hb.symm.trans hb')
      exact ⟨rfl, fun _ _ => rfl, fun _ _ => rfl⟩

/-- Settles O47: the two blocks take the same row of the loop's table. -/
theorem complementaryBlocksStayComplementary : Obligations.ComplementaryBlocksStayComplementary := by
  unfold Obligations.ComplementaryBlocksStayComplementary
  exact fun _ _ _ _ _ hq h hs => h.step hq hs

/-- Settles O48: the two calls start complementary and go on in lockstep. -/
theorem invertedCallWritesTheComplement : Obligations.InvertedCallWritesTheComplement := by
  unfold Obligations.InvertedCallWritesTheComplement
  intro k s0 s u s' n hs hu hr
  obtain ⟨v, hv, h⟩ := (hs.complementary hu).run hs.request_eq hr
  exact ⟨v, hv, by rw [h.same], by rw [h.same], by rw [h.same]⟩

end Sys2Proof.Machine

/-! ### The Bit Timing Selector (R115) -/

namespace Sys2Proof.Machine

variable {s : State}

/-- R115: the selector returns the duration of its bit and does nothing else. -/
theorem exec_dur (bit : Bool) : exec (.dur bit) s = .next (returnValue (s.duration bit) s) := rfl

/-- Settles O25: the selector only returns a value, the duration of its bit. -/
theorem durReturnsTheDurationOfItsBit : Obligations.DurReturnsTheDurationOfItsBit := by
  unfold Obligations.DurReturnsTheDurationOfItsBit
  intro bit s
  rw [exec_dur, returnValue, State.duration]

end Sys2Proof.Machine

/-! ### Each wait ends, whatever the rest of the call holds (R127) -/

namespace Sys2Proof.Machine

variable {s t : State} {w : Wait} {J n : Nat}

/-- A wait is in progress, with nothing issued, under a stall bound that keeps it away from a wrap. -/
structure Waiting (w : Wait) (J : Nat) (s : State) : Prop where
  inv : s.Inv
  quiet : s.request = none
  place : s.st = w.place
  silent : w.place ≠ .assert ∧ w.place ≠ .deassert
  bounded : s.cfg.profile = .bounded J
  needed_fits : w.needed s + J < 2 ^ s.cfg.ccw

/-- A sample adds its gap to the ticks the block sees (R122). -/
theorem Wait.Polls.seen_sample (hw : w.Polls) (s : State) :
    w.seen (sample s) = (w.seen s + s.gap) % 2 ^ s.cfg.ccw := by
  rw [Wait.seen, hw.since_sample, cc_sample_eq]
  exact subMod_add_left ..

/-- After a failed test the block waits on, as before. -/
theorem Waiting.pollAgain (h : Waiting w J s) (hw : w.Polls) (hnot : w.seen (sample s) < w.needed s) :
    Waiting w J (pollAgain w.place (sample s)) :=
  ⟨inv_loopStep h.inv (hw.goesOn h.place hnot), h.quiet, rfl, h.silent, h.bounded, by
    rw [hw.needed_poll]
    exact h.needed_fits⟩

/-- A re-poll of a wait that is not over sees at least a tick more than the poll before it: the stall bound keeps the
difference below a wrap. -/
theorem Waiting.seen_lt_seen_sample (h : Waiting w J s) (hw : w.Polls) (hr : s.repoll = true)
    (hnot : w.seen s < w.needed s) : w.seen s < w.seen (sample s) := by
  have hone := one_le_gap_of_repoll h.inv hr
  have hgap := gap_le_of_bounded h.bounded
  have hfits := h.needed_fits
  rw [hw.seen_sample, Nat.mod_eq_of_lt (by omega)]
  omega

/-- Nothing is written in a wait (R81, R83). -/
theorem Waiting.wtrace_eq (h : Waiting w J s) (hs : LoopStep s t) : t.wtrace = s.wtrace :=
  loopStep_wtrace hs (h.place ▸ h.silent.1) (h.place ▸ h.silent.2)

/-- A wait ends at the sample that finds it due. -/
theorem Waiting.ends_of_due (h : Waiting w J s) (hw : w.Polls) (hdue : w.needed s ≤ w.seen (sample s)) :
    ∃ t, Reaches s t ∧ t.st = w.next ∧ t.wtrace = s.wtrace := by
  have hleave := hw.leaves h.place hdue
  exact ⟨_, .single (hleave.step h.quiet), hw.leave_st _, h.wtrace_eq hleave⟩

/-- A wait whose next sample leaves at most `n` ticks missing ends, and nothing is written meanwhile: a further poll
leaves at least a tick less. -/
theorem Waiting.ends (h : Waiting w J s) (hw : w.Polls) (hn : w.needed s ≤ w.seen (sample s) + n) :
    ∃ t, Reaches s t ∧ t.st = w.next ∧ t.wtrace = s.wtrace := by
  induction n generalizing s with
  | zero => exact h.ends_of_due hw hn
  | succ n ih =>
    by_cases hdue : w.needed s ≤ w.seen (sample s)
    · exact h.ends_of_due hw hdue
    · have hnot := Nat.lt_of_not_le hdue
      have hpoll := hw.goesOn h.place hnot
      have hwait := h.pollAgain hw hnot
      have hseen := hw.seen_poll s
      have hneeded := hw.needed_poll s
      have hgrows := hwait.seen_lt_seen_sample hw rfl (by omega)
      obtain ⟨t, ht, hnext, htrace⟩ := ih hwait (by omega)
      exact ⟨t, .head (hpoll.step h.quiet) ht, hnext, htrace.trans (h.wtrace_eq hpoll)⟩

/-- Settles O49: `HOLD` and `AWAIT_SLOT` are the two waits, and at most all their ticks are missing. -/
theorem waitsEndUnderAStallBound : Obligations.WaitsEndUnderAStallBound := by
  unfold Obligations.WaitsEndUnderAStallBound
  intro s J h hq hJ
  constructor
  · intro hst hfits
    have hwait : Waiting holdWait J s := ⟨h, hq, hst, by decide, hJ, hfits⟩
    exact hwait.ends holdWait_polls (Nat.le_add_left ..)
  · intro hst hfits
    have hwait : Waiting slotWait J s := ⟨h, hq, hst, by decide, hJ, hfits⟩
    exact hwait.ends slotWait_polls (Nat.le_add_left ..)

end Sys2Proof.Machine

/-! ### The Cycle Clock Reader: its samples, their gaps and their differences (R120 to R125) -/

namespace Sys2Proof.Machine

variable {s t : State} {i : Instr} {k : Command} {g J : Nat}

/-- R120: one sample, whose counter value is returned. -/
theorem exec_now (s : State) : exec .now s = .next (returnValue (sample s).cc (sample s)) := rfl

/-- Settles O26: the gap is that of the one sample. -/
theorem nowReturnsTheCounterAfterAGap : Obligations.NowReturnsTheCounterAfterAGap := by
  unfold Obligations.NowReturnsTheCounterAfterAGap
  intro s h
  refine ⟨s.gap, _, one_le_gap_of_repoll h, exec_now s, ?_⟩
  rw [cc_sample]
  rfl

/-- `NOW` and the two polls each take one sample, and no other time passes (R81, R83, R120). -/
theorem exec_sampled (hi : i ∈ [Instr.now, Instr.awaitSlot, Instr.hold]) (s : State) :
    ∃ t, exec i s = .next t ∧ t.t = s.t + s.gap := by
  simp only [List.mem_cons, List.not_mem_nil, or_false] at hi
  obtain rfl | rfl | rfl := hi
  · exact ⟨_, exec_now s, rfl⟩
  · refine ⟨_, execAwaitSlot_eq s, ?_⟩
    split <;> rfl
  · refine ⟨_, execHold_eq s, ?_⟩
    split <;> rfl

/-- An accepted command takes the priming sample, or none on an empty buffer (R80, R146). -/
theorem accept_t (h : accept k s = .next t) : t.t = s.t ∨ t.t = s.t + (newCall k s).gap := by
  obtain ⟨-, -, -, hstart⟩ := accept_next h
  obtain ⟨-, rfl⟩ | ⟨-, b, -, rfl⟩ := startCall_next hstart
  · exact .inl rfl
  · exact .inr rfl

theorem newCall_gap_le_of_bounded (h : s.cfg.profile = .bounded J) : (newCall k s).gap ≤ J :=
  gap_le_of_bounded (s := newCall k s) h

/-- Settles O27: the bounds of the gap, at the sample that each of these operations takes. -/
theorem gapsFollowTheProfile : Obligations.GapsFollowTheProfile := by
  unfold Obligations.GapsFollowTheProfile
  intro s t hlegal
  constructor
  · intro i hi h
    obtain ⟨u, hu, ht⟩ := exec_sampled hi s
    obtain rfl : u = t := by simpa [hu] using h
    rw [ht, Nat.add_sub_cancel_left]
    refine ⟨Nat.le_add_right .., fun hr => ?_, fun J hJ => gap_le_of_bounded hJ, fun hideal => gap_of_ideal hideal⟩
    exact gmin_of_repoll hr ▸ gmin_le_gap hlegal
  · intro k h
    rw [exec_command] at h
    obtain ht | ht := accept_t h
    · simp [ht]
    · rw [ht, Nat.add_sub_cancel_left]
      refine ⟨Nat.le_add_right .., fun J hJ => newCall_gap_le_of_bounded hJ, fun hideal => ?_⟩
      rw [newCall_gap_of_ideal hideal, Nat.add_zero]

/-- The environment may draw `g` ticks: the profile is the general one, or bounds a gap by no less (R123, R124). -/
def State.Admits (s : State) (g : Nat) : Prop :=
  s.cfg.profile = .general ∨ ∃ J : Nat, s.cfg.profile = .bounded J ∧ g ≤ J

/-- The draw of `x` extra ticks comes next (R123). -/
def drawNext (x : Nat) (s : State) : State := { s with stalls := x :: s.stalls }

/-- A gap that the profile admits is drawn by its excess over the lower bound. -/
theorem gap_drawNext (hg : s.Admits g) (hmin : s.gmin ≤ g) : (drawNext (g - s.gmin) s).gap = g := by
  have hsum : (drawNext (g - s.gmin) s).gmin + (drawNext (g - s.gmin) s).extra = g := Nat.add_sub_of_le hmin
  have hcfg : (drawNext (g - s.gmin) s).cfg = s.cfg := rfl
  rw [State.gap, hsum, hcfg]
  obtain hgeneral | ⟨J, hJ, hle⟩ := hg
  · rw [hgeneral]
  · rw [hJ]
    exact Nat.min_eq_left hle

theorem gmin_le_of_repoll (h : s.repoll = true → 1 ≤ g) : s.gmin ≤ g := by
  cases hr : s.repoll with
  | true => exact gmin_of_repoll hr ▸ h hr
  | false => exact gmin_of_first hr ▸ Nat.zero_le g

/-- The priming sample is no re-poll, so every tick of its gap is drawn (R80, R123). -/
theorem newCall_gap_drawNext (hg : s.Admits g) : (newCall k (drawNext g s)).gap = g :=
  gap_drawNext (s := newCall k s) hg (Nat.zero_le g)

/-- Settles O28: the draw is the gap's excess over its lower bound. -/
theorem everyGapFromTheLowerBoundCanBeDrawn : Obligations.EveryGapFromTheLowerBoundCanBeDrawn := by
  unfold Obligations.EveryGapFromTheLowerBoundCanBeDrawn
  intro s g hg
  constructor
  · intro hmin i hi
    obtain ⟨t, ht, htime⟩ := exec_sampled hi (drawNext (g - s.gmin) s)
    rw [gap_drawNext hg (gmin_le_of_repoll hmin)] at htime
    exact ⟨_, t, ht, htime⟩
  · intro k b hst hfits hd hlt hb
    have hstarts := exec_command_starts (s := drawNext g s) hst hfits hd hlt hb
    refine ⟨g, _, hstarts, ?_⟩
    rw [startedCall_t, newCall_gap_drawNext hg]
    rfl

/-- R122: two samples differ by the ticks between them, modulo the counter's width. -/
theorem subMod_counter_add (w c n : Nat) : subMod w ((c + n) % 2 ^ w) (c % 2 ^ w) = n % 2 ^ w := by
  rw [← Nat.mod_add_mod, subMod_add_left, subMod_self, Nat.zero_add]

/-- Settles O29: a remainder is the number itself exactly when that is below the modulus. -/
theorem elapsedTimeIsExactBelowOneWrap : Obligations.ElapsedTimeIsExactBelowOneWrap := by
  unfold Obligations.ElapsedTimeIsExactBelowOneWrap
  intro w c0 T1 T2 hle d
  have hd : d = (T2 - T1) % 2 ^ w := by
    have hT2 : c0 + T2 = c0 + T1 + (T2 - T1) := by omega
    simp only [d, hT2, subMod_counter_add]
  rw [hd]
  exact ⟨rfl, Nat.mod_eq_iff_lt (by positivity), (T2 - T1) / 2 ^ w, (Nat.mod_add_div' ..).symm⟩

end Sys2Proof.Machine

/-! ### The ideal call under the Timing Parameters invariant (R12, R140, R141) -/

namespace Sys2Proof.Machine

/-- Settles O45: under the invariant the ideal starts of R95 are `PER` apart. -/
theorem idealCallUnderTheInvariantKeepsThePeriodExactly :
    Obligations.IdealCallUnderTheInvariantKeepsThePeriodExactly := by
  unfold Obligations.IdealCallUnderTheInvariantKeepsThePeriodExactly
  intro k s0 s hs hi hlt hread hinvariant
  obtain ⟨s', hr, hdone, -, hwaveform, hend, hstart⟩ :=
    idealCallMakesExactlyTheIdealWaveform k s0 s hs hi hlt hread
  have hstart : k.idealStart s0.mem s0.t = fun j => s0.t + j * k.a5 := funext (hstart hinvariant)
  rw [hstart] at hwaveform hend
  exact ⟨s', hr, hdone, hwaveform, hend⟩

end Sys2Proof.Machine

/-! ### A command for an empty buffer (R80, R146) -/

namespace Sys2Proof.Machine

variable {k : Command} {s : State}

/-- The call of an empty buffer is over once its operands are latched (R146). -/
theorem exec_command_empty (hst : s.st = .idle ∨ s.st = .done) (hfits : k.fits s.cfg) (hd : k.defined s.cfg)
    (he : k.a0 = k.a1) : exec k.instr s = .next (enter .done (newCall k s)) := by
  rw [exec_command, accept_of_defined hst hfits hd]
  exact if_pos (congrArg (trunc s.cfg.aw) he)

/-- Settles O9: the operands are latched and nothing else is done, whatever the memory holds. -/
theorem commandOnEmptyBufferIsDoneAtOnce : Obligations.CommandOnEmptyBufferIsDoneAtOnce := by
  unfold Obligations.CommandOnEmptyBufferIsDoneAtOnce
  intro k s _ hst hfits hd he
  have hexec := exec_command_empty hst hfits hd he
  obtain ⟨halt, hinv, hpin, hend, hsh, hlh, hper⟩ := latched_newCall hfits
  obtain ⟨h0, -, h2, -⟩ := latchedWhole_of_fits hfits
  have hline := line_accept ((exec_command k).symm.trans hexec)
  rw [h2] at hline
  exact ⟨_, hexec, rfl, rfl, rfl, rfl, rfl, rfl, rfl, rfl, rfl, rfl, rfl, halt, hinv, hpin, hend, hsh, hlh, hper, h0,
    rfl, hline, fun m => exec_command_empty (s := s.withMem m) hst hfits hd he⟩

end Sys2Proof.Machine

/-! ### Nothing but the command is taken, and nothing during a call (R145, R150, R187) -/

namespace Sys2Proof.Machine

variable {s t : State}

/-- There is no fault (R150), so what does not go on is refused. -/
theorem exists_refused_of_ne_next {o : Host.Outcome State Fault Refusal} (h : ∀ t, o ≠ .next t) :
    ∃ why, o = .refused why := by
  cases o with
  | next t => exact absurd rfl (h t)
  | fault r => cases r
  | refused why => exact ⟨why, rfl⟩

/-- A running call steps only while nothing is issued. -/
theorem request_eq_none_of_running (hr : s.running) (h : step s = .next t) : s.request = none := by
  by_contra hq
  obtain ⟨r, hq⟩ := Option.ne_none_iff_exists'.mp hq
  exact not_running_of_accepting (step_issued_accepting hq h) hr

/-- A row of R89's table returns no value. -/
theorem loopStep_portOut (h : LoopStep s t) : t.portOut = s.portOut := by
  cases h <;> simp

/-- Between calls the only row of R89's table is to do nothing (R80, R86). -/
theorem eq_of_loopStep_of_not_running (hr : ¬ s.running) (h : LoopStep s t) : t = s := by
  cases h with
  | rest => rfl
  | slotStarts hst | slotNotDue hst | asserts hst | holdEnds hst | holdGoesOn hst | deasserts hst | nextBit hst
  | callEnds hst | nextByte hst => exact absurd (running_of_st hst (by decide) (by decide)) hr

/-- A command issued during a call is refused by its own name (U1, R145). -/
theorem step_command_of_running {w : Nat} {i : Instr} (hr : s.running) (hq : s.request = some (.cmd w))
    (hi : decode s.cfg .cmd w = .ok i) : step s = .refused .commandDuringCall := by
  have hcommand := hi
  rw [decode_command (decode_ok hi)] at hcommand
  obtain rfl : (commandOfWord s.cfg w).instr = i := by simpa using hcommand
  rw [step_of_request_ok hq (intruded_of_command hq) hi, exec_command]
  exact accept_of_running hr

/-- Settles O51: whatever is issued during a call has no step, and the rows of the loop's table take nothing. -/
theorem nothingIsTakenFromOutsideDuringACall : Obligations.NothingIsTakenFromOutsideDuringACall := by
  unfold Obligations.NothingIsTakenFromOutsideDuringACall
  intro s hr
  refine ⟨fun r hq => ?_, fun w i => step_command_of_running hr, fun t h => ?_⟩
  · refine exists_refused_of_ne_next fun t h => ?_
    simp [request_eq_none_of_running hr h] at hq
  · have hq := request_eq_none_of_running hr h
    have hs := loopStep_of_running hr h
    exact ⟨hq, (loopStep_quiet hs).trans hq, loopStep_portOut hs⟩

/-- Settles O52: what else is issued intrudes; a step takes a command between calls or is a row of the loop's table. -/
theorem theCommandIsTheOnlyInteraction : Obligations.TheCommandIsTheOnlyInteraction := by
  unfold Obligations.TheCommandIsTheOnlyInteraction
  intro s hb
  refine ⟨fun r hq hformat => step_of_intruded ((intruded_iff hq).mpr (by simp [hformat, hb])), fun t h => ?_⟩
  cases hq : s.request with
  | none =>
    have hs := step_quiet hq h
    obtain ⟨-, hcfg, -⟩ := loopStep_clock hs
    refine ⟨loopStep_portOut hs, by rwa [hcfg], (loopStep_quiet hs).trans hq, .inr ⟨rfl, ?_⟩⟩
    exact or_iff_not_imp_left.mpr fun hr => eq_of_loopStep_of_not_running hr hs
  | some r =>
    obtain ⟨w, rfl, haccept⟩ := step_issued_command hb hq h
    obtain ⟨hcfg, -, -, -, -, hrequest, hport, -⟩ := accept_frame haccept
    have hbetween := not_running_of_accepting (step_issued_accepting hq h)
    exact ⟨hport, by rw [hcfg]; exact hb, hrequest, .inl ⟨w, rfl, hbetween⟩⟩

end Sys2Proof.Machine

/-! ### Where the block is stuck, and that nothing else stops a quiet state (R150, U6, log 8) -/

namespace Sys2Proof.Machine

variable {s : State} {k : Command} {r : Request} {i : Instr} {why : Refusal}

/-- No outcome is a fault, for the block has none (R150). -/
theorem ne_fault (o : Host.Outcome State Fault Refusal) (f : Fault) : o ≠ .fault f := by
  cases f

/-- A call that does not start is stuck on the first byte of its buffer (U6). -/
theorem startCall_refused (h : startCall s = .refused why) :
    why = .stuckRead ∧ s.ptr ≠ s.endAddr ∧ s.mem.read s.ptr = none := by
  unfold startCall at h
  split at h
  · cases h
  · next hne =>
    obtain ⟨hread, rfl⟩ := fetchByte_refused h
    exact ⟨rfl, hne, hread⟩

/-- A command is stuck between calls only, past the tests of R80, on the first byte of a non-empty buffer (U6). -/
theorem accept_stuck (hfits : k.fits s.cfg) (h : accept k s = .refused .stuckRead) :
    ¬ s.running ∧ k.a0 < k.a1 ∧ s.mem.read k.a0 = none := by
  have hr : ¬ s.running := fun hr => by simp [accept_of_running hr] at h
  have hle : trunc s.cfg.aw k.a0 ≤ trunc s.cfg.aw k.a1 :=
    not_lt.mp fun hlt => by simp [accept_of_end_lt_start hr hlt] at h
  have hline (ha : k.alt = false) : trunc s.cfg.pw k.a2 < s.cfg.nl :=
    not_le.mp fun hnl => by simp [accept_of_no_line hr hle ha hnl] at h
  rw [accept_of (accepting_of_not_running hr) hle hline] at h
  obtain ⟨-, hne, hread⟩ := startCall_refused h
  obtain ⟨h0, h1, -⟩ := latchedWhole_of_fits hfits
  simp only [newCall_ptr, newCall_endAddr, newCall_mem, h0, h1] at hne hread hle
  exact ⟨hr, lt_of_le_of_ne hle hne, hread⟩

/-- An operation of a component goes on in every state (R104 to R111, R115, R120, R67). -/
theorem exec_component_next {c : Config} (hr : r.format ≠ .cmd) (hi : decode c r.format r.word = .ok i) :
    ∃ t, exec i s = .next t := by
  have hw := decode_ok hi
  unfold decode at hi
  rw [if_neg (Nat.not_le.mpr hw)] at hi
  cases r with
  | cmd => exact absurd rfl hr
  | drv =>
    cases hi
    exact ⟨_, exec_driver ..⟩
  | dur =>
    cases hi
    exact ⟨_, exec_dur _⟩
  | clk =>
    cases hi
    exact ⟨_, exec_now s⟩
  | sym =>
    cases hi
    exact ⟨_, exec_symbol _⟩

/-- Of what is issued, only a command can be stuck. -/
theorem step_issued_stuck (hr : s.request = some r) (h : step s = .refused .stuckRead) :
    ∃ w, r = .cmd w ∧ accept (commandOfWord s.cfg w) (taken s) = .refused .stuckRead := by
  have hserved : s.intruded = false := by
    by_contra hi
    rw [step_of_intruded (by simpa using hi)] at h
    cases h
  cases hd : decode s.cfg r.format r.word with
  | error e =>
    rw [step_of_request_error hr hserved hd] at h
    cases h
  | ok i =>
    rw [step_of_request_ok hr hserved hd] at h
    have hf : r.format = .cmd := by
      by_contra hf
      obtain ⟨t, ht⟩ := exec_component_next (s := taken s) hf hd
      rw [ht] at h
      cases h
    cases r with
    | cmd w =>
      have hi : decode s.cfg .cmd w = .ok i := hd
      obtain rfl : (commandOfWord s.cfg w).instr = i := by simpa [decode_command (decode_ok hi)] using hi
      exact ⟨w, rfl, (exec_command _).symm.trans h⟩
    | drv | dur | clk | sym => cases hf

/-- A quiet state without a step is stuck in `ADVANCE`, on a byte of the rest of its buffer (R85, U6). -/
theorem step_quiet_stuck (h : s.Inv) (hq : s.request = none) (hs : step s = .refused why) :
    s.st = .advance ∧ s.mask >>> 1 = 0 ∧ s.ptr + 1 < s.endAddr ∧ s.mem.read (s.ptr + 1) = none := by
  obtain ⟨-, hst, hm, he, hread⟩ := step_quiet_refused hq hs
  have hr := running_of_st hst (by decide) (by decide)
  obtain ⟨-, hbefore⟩ := nextAddress_in_rest h hr he
  rw [incMod_ptr h hr] at hbefore hread
  exact ⟨hst, hm, hbefore, hread⟩

/-- Settles O38: what is stuck is stuck on the fetch of R80 or of R85, and the rest of a readable buffer has the byte
R85 fetches. -/
theorem onlyAnUnreadableByteStopsARunningCall : Obligations.OnlyAnUnreadableByteStopsARunningCall := by
  unfold Obligations.OnlyAnUnreadableByteStopsARunningCall
  refine ⟨fun i s f => ⟨ne_fault _ f, ne_fault _ f⟩, fun s h hs => ?_,
    fun s why hq hs => (step_quiet_refused hq hs).1, fun s h hq hread => ?_⟩
  · cases hq : s.request with
    | none => exact .inl ⟨rfl, step_quiet_stuck h hq hs⟩
    | some r =>
      obtain ⟨w, rfl, haccept⟩ := step_issued_stuck hq hs
      exact .inr ⟨w, rfl, accept_stuck (s := taken s) (fits_commandOfWord ..) haccept⟩
  · by_contra hstops
    obtain ⟨why, hs⟩ := exists_refused_of_ne_next (not_exists.mp hstops)
    obtain ⟨-, -, hbefore, hnone⟩ := step_quiet_stuck h hq hs
    obtain ⟨b, hb⟩ := hread (s.ptr + 1) (Nat.le_succ _) hbefore
    simp [hnone] at hb

end Sys2Proof.Machine

/-! ### The start state (R173, logs 3 and 4) -/

namespace Sys2Proof.Machine

/-- Zero fits every width (R10), and what R16, R21 and R13 ask of a running call is asked of no idle block. -/
theorem inv_reset : State.reset.Inv where
  legal := by decide
  mem_wf := rfl
  mem_addr := by simp [State.reset]
  endAddr_fits := Nat.two_pow_pos _
  ptr_fits := Nat.two_pow_pos _
  sh_fits := Nat.two_pow_pos _
  lh_fits := Nat.two_pow_pos _
  per_fits := Nat.two_pow_pos _
  tstart_fits := Nat.two_pow_pos _
  tprev_fits := Nat.two_pow_pos _
  c0_fits := Nat.two_pow_pos _
  pin_fits := Nat.two_pow_pos _
  pout_fits := Nat.two_pow_pos _
  aout_fits := Nat.two_pow_pos _
  mask_oneHot := ⟨7, by decide, rfl⟩
  in_buffer hr := absurd rfl hr.1
  current_byte hr := absurd rfl hr.1
  line_exists hr := absurd rfl hr.1
  repoll_waits h := by cases h
  trace_stamped := by simp [State.reset]
  trace_ordered := .nil

/-- Settles O6: the start state is well formed, and `IDLE` does nothing without a command. -/
theorem resetIsIdleAndWellFormed : Obligations.ResetIsIdleAndWellFormed := by
  unfold Obligations.ResetIsIdleAndWellFormed
  have hidle : exec .idle State.reset = .next State.reset := (idleAndDoneWithoutACommandDoNothing _ rfl).1
  exact ⟨rfl, inv_reset, (step_of_none rfl).trans hidle⟩

end Sys2Proof.Machine

/-! ### No value carries from one call to the next (R170, R171) -/

namespace Sys2Proof.Machine

variable {k : Command} {s u : State}

/-- Two blocks agree on everything but their latches, transmission registers, trace and poll mark (R10, R171). -/
structure SameOutside (s u : State) : Prop where
  cfg : u.cfg = s.cfg
  pout : u.pout = s.pout
  aout : u.aout = s.aout
  mem : u.mem = s.mem
  t : u.t = s.t
  c0 : u.c0 = s.c0
  request : u.request = s.request
  stalls : u.stalls = s.stalls
  draws : u.draws = s.draws
  portOut : u.portOut = s.portOut

/-- The start of a call writes every register of the block but `ST` (R170). -/
theorem newCall_of_sameOutside (h : SameOutside s u) : newCall k u = enter u.st (newCall k s) := by
  obtain ⟨hcfg, hpout, haout, hmem, ht, hc0, hrequest, hstalls, hdraws, hport⟩ := h
  simp only [newCall, enter, *]

/-- Once a command is taken, `ST` is written without being read: `DONE` or `AWAIT_SLOT` (R80). -/
theorem startCall_enter (x : LoopState) : startCall (enter x s) = startCall s := rfl

/-- Between calls the tests of R80 read the arguments and the parameters only, and what they let through starts
from a state in which no register of an earlier call is left. -/
theorem accept_of_sameOutside (hs : ¬ s.running) (hu : ¬ u.running) (h : SameOutside s u) :
    accept k u = accept k s := by
  simp only [accept, accepting_of_not_running hs, accepting_of_not_running hu, h.cfg, newCall_of_sameOutside h,
    startCall_enter]

/-- Settles O12: a command is `accept` of its tuple, which reads of the registers only that no call is in progress. -/
theorem noValueCarriesFromOneCallToTheNext : Obligations.NoValueCarriesFromOneCallToTheNext := by
  unfold Obligations.NoValueCarriesFromOneCallToTheNext
  intro k s u hs hu hcfg hpout haout hmem ht hc0 hrequest hstalls hdraws hport
  rw [exec_command, exec_command]
  exact accept_of_sameOutside hs hu ⟨hcfg, hpout, haout, hmem, ht, hc0, hrequest, hstalls, hdraws, hport⟩

end Sys2Proof.Machine
